-- ==== Sys2Proof/Word.lean ====
section
/-! DEFINITION. The value types of the engine (spec 00_scope.md, section 5): bytes, the unsigned 32-bit
words of every operation, the packed 64-bit outputs, the 16-bit command word, and the round index. -/

namespace Sys2Proof

/-- A byte, 0 to 255 (00_scope.md, section 5). -/
abbrev Byte := BitVec 8

/-- `W32`, the word of every arithmetic operation; addition and subtraction wrap modulo 2^32 (R9). -/
abbrev Word := BitVec 32

/-- `W64`, only ever a concatenation of two words (R9). -/
abbrev W64 := BitVec 64

/-- The command word of format `CMD16` (R61). -/
abbrev CmdWord := BitVec 16

/-- A 0-based round index, of a block round or of a key-schedule round: 0 to 15 (R5, R15, R16, R66). -/
abbrev Round := Fin 16

end Sys2Proof
end

