-- ==== Sys2Proof/Config.lean ====
section
/-! DEFINITION. What an implementation of the engine fixes (spec 00_scope.md, section 3), and the free values: the
bytes of the input buffers that the host has not written (93_implementation_defined.md U8). -/

namespace Sys2Proof

/-- The parameters a model takes as arguments. `LANES` (R7) is no field: no result depends on it and the
model takes it as 1 (log 5). -/
structure Config where
  /-- `NMAX`, the largest block count the column storage holds, at least 1 (R6). -/
  nmax : Nat
deriving DecidableEq, Repr

/-- The parameter is legal: "a natural number, at least 1" (R6). -/
abbrev Config.legal (c : Config) : Prop := 1 ≤ c.nmax

/-- The byte of `VALS` at an offset the host has not written: "any value" (93 U8, R187; log 3). A free value; nothing
constrains it. The first argument stands for the occasion, the second is the offset. -/
opaque Config.unwrittenVals : Nat → Nat → Byte

/-- The byte of `KEYS` at an offset the host has not written, as `Config.unwrittenVals` (93 U8, R187; log 3). -/
opaque Config.unwrittenKeys : Nat → Nat → Byte

/-- The number of bytes of a block and of a key: 128 bits (R5). -/
def blockBytes : Nat := 16

/-- `MAX_ROUNDS` (R5). -/
def maxRounds : Nat := 16

end Sys2Proof
end

