-- ==== Sys2Proof/Syntax.lean ====
section
/-! DEFINITION. The commands of the engine as data (spec 30_encoding.md): one constructor of `Instr` for
each row of spec/opcode_table.json. -/

namespace Sys2Proof

/-- The eight step identifiers, "stable numeric IDs" (R64), in the order of their numbers. -/
inductive StepId where
  /-- 0, RoundKey -/
  | rkey
  /-- 1, Right -/
  | right
  /-- 2, AddRoundKey -/
  | ark
  /-- 3, GDa -/
  | gda
  /-- 4, GC -/
  | gc
  /-- 5, GDb -/
  | gdb
  /-- 6, F -/
  | f
  /-- 7, Output -/
  | out
deriving DecidableEq, Repr

/-- A host command (R60, R64). `dec` is the `decrypt` boolean and `rnd` the host's `round_1based`, as the
field of the word carries them; which values of `rnd` are legal is checked when the command runs (R62). -/
inductive Instr where
  /-- `RESET` -/
  | reset
  /-- `EXEC.RKEY` -/
  | rkey (dec : Bool) (rnd : Nat)
  /-- `EXEC.RIGHT` -/
  | right (dec : Bool) (rnd : Nat)
  /-- `EXEC.ARK` -/
  | ark (dec : Bool) (rnd : Nat)
  /-- `EXEC.GDA` -/
  | gda (dec : Bool) (rnd : Nat)
  /-- `EXEC.GC` -/
  | gc (dec : Bool) (rnd : Nat)
  /-- `EXEC.GDB` -/
  | gdb (dec : Bool) (rnd : Nat)
  /-- `EXEC.F` -/
  | f (dec : Bool) (rnd : Nat)
  /-- `EXEC.OUT` -/
  | out (dec : Bool) (rnd : Nat)
deriving DecidableEq, Repr

/-- `EXECUTE(decrypt, round_1based, step_id)` as the command of its step variant (R62, R64). -/
def Instr.ofStep (st : StepId) (dec : Bool) (rnd : Nat) : Instr :=
  match st with
  | .rkey => .rkey dec rnd
  | .right => .right dec rnd
  | .ark => .ark dec rnd
  | .gda => .gda dec rnd
  | .gc => .gc dec rnd
  | .gdb => .gdb dec rnd
  | .f => .f dec rnd
  | .out => .out dec rnd

end Sys2Proof
end

