-- ==== Sys2Proof/WellFormed.lean ====
section
/-! DEFINITION. Which commands a word can hold (spec 30_encoding.md R61): `round_1based` fits the five
bits of `rnd`. The field is one bit wider than the legal range 1..16 needs, "so that the source's errors
... stay expressible in the word"; 0 and 17..31 are well-formed and raise `InputShape` when they run. -/

namespace Sys2Proof

/-- `round_1based` fits the field `rnd`, bits 10:6 (R61). -/
def rndFits (rnd : Nat) : Bool := decide (rnd < 32)

/-- The command can be written as a word of format `CMD16` (R61). -/
def Instr.wellFormed : Instr → Bool
  | .reset => true
  | .rkey _ rnd => rndFits rnd
  | .right _ rnd => rndFits rnd
  | .ark _ rnd => rndFits rnd
  | .gda _ rnd => rndFits rnd
  | .gc _ rnd => rndFits rnd
  | .gdb _ rnd => rndFits rnd
  | .f _ rnd => rndFits rnd
  | .out _ rnd => rndFits rnd

end Sys2Proof
end

