-- ==== Sys2Proof/Decode.lean ====
section
/-! DEFINITION. Decoding and encoding of the command word (spec 30_encoding.md R61, R62, R64, R69). -/

namespace Sys2Proof

/-- Why a word is reserved: the three reserved classes of R69. -/
inductive Reserved where
  /-- `zero` (bits 1:0) is not `00`. -/
  | lowBits
  /-- `op = 0` with a nonzero bit among 11:0. -/
  | resetFields
  /-- `op` is 2 to 15. -/
  | operation
deriving DecidableEq, Repr

/-- What a word decodes to. -/
inductive Decoded where
  /-- A command of the opcode table. -/
  | instr (i : Instr)
  /-- An `EXECUTE` whose `step` is 8 to 15, "step ID unknown": no row of the table, an `InputShape` (R69). -/
  | unknownStep (dec : Bool) (rnd : Nat) (step : Nat)
  /-- A reserved word (R69). -/
  | reserved (why : Reserved)
deriving DecidableEq, Repr

/-- Bits 15:12, `op` (R61). -/
def opField (w : CmdWord) : BitVec 4 := w.extractLsb' 12 4

/-- Bit 11, `dec` (R61). -/
def decField (w : CmdWord) : Bool := w.getLsbD 11

/-- Bits 10:6, `rnd`, an unsigned number (R61, R63). -/
def rndField (w : CmdWord) : Nat := (w.extractLsb' 6 5).toNat

/-- Bits 5:2, `step`, an unsigned number (R61, R63). -/
def stepField (w : CmdWord) : Nat := (w.extractLsb' 2 4).toNat

/-- Bits 1:0, `zero` (R61). -/
def zeroField (w : CmdWord) : BitVec 2 := w.extractLsb' 0 2

/-- The number of a step identifier (R64). -/
def StepId.id : StepId → Nat
  | .rkey => 0
  | .right => 1
  | .ark => 2
  | .gda => 3
  | .gc => 4
  | .gdb => 5
  | .f => 6
  | .out => 7

/-- The step identifier of a number; 8 to 15 are unknown (R61, R64). -/
def StepId.ofId? (n : Nat) : Option StepId :=
  match n with
  | 0 => some .rkey
  | 1 => some .right
  | 2 => some .ark
  | 3 => some .gda
  | 4 => some .gc
  | 5 => some .gdb
  | 6 => some .f
  | 7 => some .out
  | _ => none

/-- Decoding (R62), total on every word; the illegal words are named by their class (R69). The range
check on `round_1based` is no part of it (R62). -/
def decode (w : CmdWord) : Decoded :=
  if zeroField w ≠ 0 then .reserved .lowBits
  else if opField w = 0 then
    if w = 0 then .instr .reset else .reserved .resetFields
  else if opField w = 1 then
    match StepId.ofId? (stepField w) with
    | some st => .instr (Instr.ofStep st (decField w) (rndField w))
    | none => .unknownStep (decField w) (rndField w) (stepField w)
  else .reserved .operation

/-- The word of `EXECUTE(dec, rnd, step)`: its five fields side by side (R61). -/
def execWord (st : StepId) (dec : Bool) (rnd : Nat) : CmdWord :=
  0x1#4 ++ BitVec.ofBool dec ++ BitVec.ofNat 5 rnd ++ BitVec.ofNat 4 st.id ++ 0#2

/-- The word of a command (R61, R64). -/
def encode : Instr → CmdWord
  | .reset => 0x0000#16
  | .rkey dec rnd => execWord .rkey dec rnd
  | .right dec rnd => execWord .right dec rnd
  | .ark dec rnd => execWord .ark dec rnd
  | .gda dec rnd => execWord .gda dec rnd
  | .gc dec rnd => execWord .gc dec rnd
  | .gdb dec rnd => execWord .gdb dec rnd
  | .f dec rnd => execWord .f dec rnd
  | .out dec rnd => execWord .out dec rnd

/-- The `match` column of the opcode map (30_encoding.md, section 3). -/
def matchBits : Instr → CmdWord
  | .reset => 0x0000#16
  | .rkey .. => 0x1000#16
  | .right .. => 0x1004#16
  | .ark .. => 0x1008#16
  | .gda .. => 0x100C#16
  | .gc .. => 0x1010#16
  | .gdb .. => 0x1014#16
  | .f .. => 0x1018#16
  | .out .. => 0x101C#16

/-- The `mask` column of the opcode map (30_encoding.md, section 3). -/
def maskBits : Instr → CmdWord
  | .reset => 0xFFFF#16
  | .rkey .. => 0xF03F#16
  | .right .. => 0xF03F#16
  | .ark .. => 0xF03F#16
  | .gda .. => 0xF03F#16
  | .gc .. => 0xF03F#16
  | .gdb .. => 0xF03F#16
  | .f .. => 0xF03F#16
  | .out .. => 0xF03F#16

/-- The pseudo-command `ENCRYPT` (R71). -/
def pseudoEncrypt : Instr := .out false 16

/-- The pseudo-command `DECRYPT` (R71). -/
def pseudoDecrypt : Instr := .out true 16

/-- The command word that `nbits` bits of value `w` write to `CMD`: the register is one 16-bit word, so the
table's numbering of the bits is the register's. -/
def tableWord (nbits w : Nat) : CmdWord := BitVec.ofNat 16 (w % 2 ^ nbits)

/-- The command the decoder reads from a word of the opcode table, or nothing where the word is none of
the table's commands. -/
def decodeTableWord (nbits w : Nat) : Option Instr :=
  match decode (tableWord nbits w) with
  | .instr i => some i
  | .unknownStep .. => none
  | .reserved _ => none

end Sys2Proof
end

