-- ==== Sys2Proof/Machine/Bits.lean ====
section
/-! DEFINITION. Byte order and packing (spec 00_scope.md section 5, 20_memory.md R40 to R42), and the record of
four words that a block or a key is. -/

namespace Sys2Proof.Machine

/-- `BE32(b0, b1, b2, b3)`: the byte at the lowest offset is the most significant (R40). -/
def be32 (b0 b1 b2 b3 : Byte) : Word :=
  (b0.setWidth 32 <<< 24) ||| (b1.setWidth 32 <<< 16) ||| (b2.setWidth 32 <<< 8) ||| b3.setWidth 32

/-- `byte_k(a)`, `k` = 0..3, byte 0 the most significant (00_scope.md section 5, R41). -/
def byteOf (k : Nat) (a : Word) : Byte := (a >>> (8 * (3 - k))).setWidth 8

/-- `hi ∥ lo`, the packed 64-bit output `(hi << 32) | lo` (R42). -/
def packPair (hi lo : Word) : W64 := (hi.setWidth 64 <<< 32) ||| lo.setWidth 64

/-- The four words of one block (`V1[i]..V4[i]`) or of one key (`K1[i]..K4[i]`) (R10, R11). -/
structure Quad where
  w1 : Word
  w2 : Word
  w3 : Word
  w4 : Word
deriving DecidableEq, Repr

/-- The 16 bytes of four words, each word from its most to its least significant byte (R41). -/
def Quad.bytes (q : Quad) : List Byte :=
  [byteOf 0 q.w1, byteOf 1 q.w1, byteOf 2 q.w1, byteOf 3 q.w1,
   byteOf 0 q.w2, byteOf 1 q.w2, byteOf 2 q.w2, byteOf 3 q.w2,
   byteOf 0 q.w3, byteOf 1 q.w3, byteOf 2 q.w3, byteOf 3 q.w3,
   byteOf 0 q.w4, byteOf 1 q.w4, byteOf 2 q.w4, byteOf 3 q.w4]

end Sys2Proof.Machine
end

