-- ==== Sys2Proof/Machine/Tables.lean ====
section
/-! DEFINITION. The constant store (spec 40_constant_tables.md R80 to R85; log 11): each line of a listing of
the spec is one literal here, its entries from left to right in index order, so that the text can be held
beside the spec's. The store is no part of State: no command and no reset writes it (20_memory.md R50). -/

namespace Sys2Proof.Machine

/-- Entry `idx` of a table whose lines hold `perLine` entries of `bits` bits each, the first entry of a line
in its most significant bits. -/
def tableEntry (lines : List Nat) (perLine bits idx : Nat) : Nat :=
  (lines.getD (idx / perLine) 0 >>> (bits * (perLine - 1 - idx % perLine))) % 2 ^ bits

/-- The listing of `SS0`, 32 lines of 8 entries (section 5). -/
def ss0Rows : List Nat := [
  0x2989A1A8_05858184_16C6D2D4_13C3D3D0_14445054_1D0D111C_2C8CA0AC_25052124,
  0x1D4D515C_03434340_18081018_1E0E121C_11415150_3CCCF0FC_0ACAC2C8_23436360,
  0x28082028_04444044_20002020_1D8D919C_20C0E0E0_22C2E2E0_08C8C0C8_17071314,
  0x2585A1A4_0F8F838C_03030300_3B4B7378_3B8BB3B8_13031310_12C2D2D0_2ECEE2EC,
  0x30407070_0C8C808C_3F0F333C_2888A0A8_32023230_1DCDD1DC_36C6F2F4_34447074,
  0x2CCCE0EC_15859194_0B0B0308_17475354_1C4C505C_1B4B5358_3D8DB1BC_01010100,
  0x24042024_1C0C101C_33437370_18889098_10001010_0CCCC0CC_32C2F2F0_19C9D1D8,
  0x2C0C202C_27C7E3E4_32427270_03838380_1B8B9398_11C1D1D0_06868284_09C9C1C8,
  0x20406060_10405050_2383A3A0_2BCBE3E8_0D0D010C_3686B2B4_1E8E929C_0F4F434C,
  0x3787B3B4_1A4A5258_06C6C2C4_38487078_2686A2A4_12021210_2F8FA3AC_15C5D1D4,
  0x21416160_03C3C3C0_3484B0B4_01414140_12425250_3D4D717C_0D8D818C_08080008,
  0x1F0F131C_19899198_00000000_19091118_04040004_13435350_37C7F3F4_21C1E1E0,
  0x3DCDF1FC_36467274_2F0F232C_27072324_3080B0B0_0B8B8388_0E0E020C_2B8BA3A8,
  0x2282A2A0_2E4E626C_13839390_0D4D414C_29496168_3C4C707C_09090108_0A0A0208,
  0x3F8FB3BC_2FCFE3EC_33C3F3F0_05C5C1C4_07878384_14041014_3ECEF2FC_24446064,
  0x1ECED2DC_2E0E222C_0B4B4348_1A0A1218_06060204_21012120_2B4B6368_26466264,
  0x02020200_35C5F1F4_12829290_0A8A8288_0C0C000C_3383B3B0_3E4E727C_10C0D0D0,
  0x3A4A7278_07474344_16869294_25C5E1E4_26062224_00808080_2D8DA1AC_1FCFD3DC,
  0x2181A1A0_30003030_37073334_2E8EA2AC_36063234_15051114_22022220_38083038,
  0x34C4F0F4_2787A3A4_05454144_0C4C404C_01818180_29C9E1E8_04848084_17879394,
  0x35053134_0BCBC3C8_0ECEC2CC_3C0C303C_31417170_11011110_07C7C3C4_09898188,
  0x35457174_3BCBF3F8_1ACAD2D8_38C8F0F8_14849094_19495158_02828280_04C4C0C4,
  0x3FCFF3FC_09494148_39093138_27476364_00C0C0C0_0FCFC3CC_17C7D3D4_3888B0B8,
  0x0F0F030C_0E8E828C_02424240_23032320_11819190_2C4C606C_1BCBD3D8_2484A0A4,
  0x34043034_31C1F1F0_08484048_02C2C2C0_2F4F636C_3D0D313C_2D0D212C_00404040,
  0x3E8EB2BC_3E0E323C_3C8CB0BC_01C1C1C0_2A8AA2A8_3A8AB2B8_0E4E424C_15455154,
  0x3B0B3338_1CCCD0DC_28486068_3F4F737C_1C8C909C_18C8D0D8_0A4A4248_16465254,
  0x37477374_2080A0A0_2DCDE1EC_06464244_3585B1B4_2B0B2328_25456164_3ACAF2F8,
  0x23C3E3E0_3989B1B8_3181B1B0_1F8F939C_1E4E525C_39C9F1F8_26C6E2E4_3282B2B0,
  0x31013130_2ACAE2E8_2D4D616C_1F4F535C_24C4E0E4_30C0F0F0_0DCDC1CC_08888088,
  0x16061214_3A0A3238_18485058_14C4D0D4_22426260_29092128_07070304_33033330,
  0x28C8E0E8_1B0B1318_05050104_39497178_10809090_2A4A6268_2A0A2228_1A8A9298]

/-- The listing of `SS1` (section 5). -/
def ss1Rows : List Nat := [
  0x38380830_E828C8E0_2C2D0D21_A42686A2_CC0FCFC3_DC1ECED2_B03383B3_B83888B0,
  0xAC2F8FA3_60204060_54154551_C407C7C3_44044440_6C2F4F63_682B4B63_581B4B53,
  0xC003C3C3_60224262_30330333_B43585B1_28290921_A02080A0_E022C2E2_A42787A3,
  0xD013C3D3_90118191_10110111_04060602_1C1C0C10_BC3C8CB0_34360632_480B4B43,
  0xEC2FCFE3_88088880_6C2C4C60_A82888A0_14170713_C404C4C0_14160612_F434C4F0,
  0xC002C2C2_44054541_E021C1E1_D416C6D2_3C3F0F33_3C3D0D31_8C0E8E82_98188890,
  0x28280820_4C0E4E42_F436C6F2_3C3E0E32_A42585A1_F839C9F1_0C0D0D01_DC1FCFD3,
  0xD818C8D0_282B0B23_64264662_783A4A72_24270723_2C2F0F23_F031C1F1_70324272,
  0x40024242_D414C4D0_40014141_C000C0C0_70334373_64274763_AC2C8CA0_880B8B83,
  0xF437C7F3_AC2D8DA1_80008080_1C1F0F13_C80ACAC2_2C2C0C20_A82A8AA2_34340430,
  0xD012C2D2_080B0B03_EC2ECEE2_E829C9E1_5C1D4D51_94148490_18180810_F838C8F0,
  0x54174753_AC2E8EA2_08080800_C405C5C1_10130313_CC0DCDC1_84068682_B83989B1,
  0xFC3FCFF3_7C3D4D71_C001C1C1_30310131_F435C5F1_880A8A82_682A4A62_B03181B1,
  0xD011C1D1_20200020_D417C7D3_00020202_20220222_04040400_68284860_70314171,
  0x04070703_D81BCBD3_9C1D8D91_98198991_60214161_BC3E8EB2_E426C6E2_58194951,
  0xDC1DCDD1_50114151_90108090_DC1CCCD0_981A8A92_A02383A3_A82B8BA3_D010C0D0,
  0x80018181_0C0F0F03_44074743_181A0A12_E023C3E3_EC2CCCE0_8C0D8D81_BC3F8FB3,
  0x94168692_783B4B73_5C1C4C50_A02282A2_A02181A1_60234363_20230323_4C0D4D41,
  0xC808C8C0_9C1E8E92_9C1C8C90_383A0A32_0C0C0C00_2C2E0E22_B83A8AB2_6C2E4E62,
  0x9C1F8F93_581A4A52_F032C2F2_90128292_F033C3F3_48094941_78384870_CC0CCCC0,
  0x14150511_F83BCBF3_70304070_74354571_7C3F4F73_34350531_10100010_00030303,
  0x64244460_6C2D4D61_C406C6C2_74344470_D415C5D1_B43484B0_E82ACAE2_08090901,
  0x74364672_18190911_FC3ECEF2_40004040_10120212_E020C0E0_BC3D8DB1_04050501,
  0xF83ACAF2_00010101_F030C0F0_282A0A22_5C1E4E52_A82989A1_54164652_40034343,
  0x84058581_14140410_88098981_981B8B93_B03080B0_E425C5E1_48084840_78394971,
  0x94178793_FC3CCCF0_1C1E0E12_80028282_20210121_8C0C8C80_181B0B13_5C1F4F53,
  0x74374773_54144450_B03282B2_1C1D0D11_24250521_4C0F4F43_00000000_44064642,
  0xEC2DCDE1_58184850_50124252_E82BCBE3_7C3E4E72_D81ACAD2_C809C9C1_FC3DCDF1,
  0x30300030_94158591_64254561_3C3C0C30_B43686B2_E424C4E0_B83B8BB3_7C3C4C70,
  0x0C0E0E02_50104050_38390931_24260622_30320232_84048480_68294961_90138393,
  0x34370733_E427C7E3_24240420_A42484A0_C80BCBC3_50134353_080A0A02_84078783,
  0xD819C9D1_4C0C4C40_80038383_8C0F8F83_CC0ECEC2_383B0B33_480A4A42_B43787B3]

/-- The listing of `SS2` (section 5). -/
def ss2Rows : List Nat := [
  0xA1A82989_81840585_D2D416C6_D3D013C3_50541444_111C1D0D_A0AC2C8C_21242505,
  0x515C1D4D_43400343_10181808_121C1E0E_51501141_F0FC3CCC_C2C80ACA_63602343,
  0x20282808_40440444_20202000_919C1D8D_E0E020C0_E2E022C2_C0C808C8_13141707,
  0xA1A42585_838C0F8F_03000303_73783B4B_B3B83B8B_13101303_D2D012C2_E2EC2ECE,
  0x70703040_808C0C8C_333C3F0F_A0A82888_32303202_D1DC1DCD_F2F436C6_70743444,
  0xE0EC2CCC_91941585_03080B0B_53541747_505C1C4C_53581B4B_B1BC3D8D_01000101,
  0x20242404_101C1C0C_73703343_90981888_10101000_C0CC0CCC_F2F032C2_D1D819C9,
  0x202C2C0C_E3E427C7_72703242_83800383_93981B8B_D1D011C1_82840686_C1C809C9,
  0x60602040_50501040_A3A02383_E3E82BCB_010C0D0D_B2B43686_929C1E8E_434C0F4F,
  0xB3B43787_52581A4A_C2C406C6_70783848_A2A42686_12101202_A3AC2F8F_D1D415C5,
  0x61602141_C3C003C3_B0B43484_41400141_52501242_717C3D4D_818C0D8D_00080808,
  0x131C1F0F_91981989_00000000_11181909_00040404_53501343_F3F437C7_E1E021C1,
  0xF1FC3DCD_72743646_232C2F0F_23242707_B0B03080_83880B8B_020C0E0E_A3A82B8B,
  0xA2A02282_626C2E4E_93901383_414C0D4D_61682949_707C3C4C_01080909_02080A0A,
  0xB3BC3F8F_E3EC2FCF_F3F033C3_C1C405C5_83840787_10141404_F2FC3ECE_60642444,
  0xD2DC1ECE_222C2E0E_43480B4B_12181A0A_02040606_21202101_63682B4B_62642646,
  0x02000202_F1F435C5_92901282_82880A8A_000C0C0C_B3B03383_727C3E4E_D0D010C0,
  0x72783A4A_43440747_92941686_E1E425C5_22242606_80800080_A1AC2D8D_D3DC1FCF,
  0xA1A02181_30303000_33343707_A2AC2E8E_32343606_11141505_22202202_30383808,
  0xF0F434C4_A3A42787_41440545_404C0C4C_81800181_E1E829C9_80840484_93941787,
  0x31343505_C3C80BCB_C2CC0ECE_303C3C0C_71703141_11101101_C3C407C7_81880989,
  0x71743545_F3F83BCB_D2D81ACA_F0F838C8_90941484_51581949_82800282_C0C404C4,
  0xF3FC3FCF_41480949_31383909_63642747_C0C000C0_C3CC0FCF_D3D417C7_B0B83888,
  0x030C0F0F_828C0E8E_42400242_23202303_91901181_606C2C4C_D3D81BCB_A0A42484,
  0x30343404_F1F031C1_40480848_C2C002C2_636C2F4F_313C3D0D_212C2D0D_40400040,
  0xB2BC3E8E_323C3E0E_B0BC3C8C_C1C001C1_A2A82A8A_B2B83A8A_424C0E4E_51541545,
  0x33383B0B_D0DC1CCC_60682848_737C3F4F_909C1C8C_D0D818C8_42480A4A_52541646,
  0x73743747_A0A02080_E1EC2DCD_42440646_B1B43585_23282B0B_61642545_F2F83ACA,
  0xE3E023C3_B1B83989_B1B03181_939C1F8F_525C1E4E_F1F839C9_E2E426C6_B2B03282,
  0x31303101_E2E82ACA_616C2D4D_535C1F4F_E0E424C4_F0F030C0_C1CC0DCD_80880888,
  0x12141606_32383A0A_50581848_D0D414C4_62602242_21282909_03040707_33303303,
  0xE0E828C8_13181B0B_01040505_71783949_90901080_62682A4A_22282A0A_92981A8A]

/-- The listing of `SS3` (section 5). -/
def ss3Rows : List Nat := [
  0x08303838_C8E0E828_0D212C2D_86A2A426_CFC3CC0F_CED2DC1E_83B3B033_88B0B838,
  0x8FA3AC2F_40606020_45515415_C7C3C407_44404404_4F636C2F_4B63682B_4B53581B,
  0xC3C3C003_42626022_03333033_85B1B435_09212829_80A0A020_C2E2E022_87A3A427,
  0xC3D3D013_81919011_01111011_06020406_0C101C1C_8CB0BC3C_06323436_4B43480B,
  0xCFE3EC2F_88808808_4C606C2C_88A0A828_07131417_C4C0C404_06121416_C4F0F434,
  0xC2C2C002_45414405_C1E1E021_C6D2D416_0F333C3F_0D313C3D_8E828C0E_88909818,
  0x08202828_4E424C0E_C6F2F436_0E323C3E_85A1A425_C9F1F839_0D010C0D_CFD3DC1F,
  0xC8D0D818_0B23282B_46626426_4A72783A_07232427_0F232C2F_C1F1F031_42727032,
  0x42424002_C4D0D414_41414001_C0C0C000_43737033_47636427_8CA0AC2C_8B83880B,
  0xC7F3F437_8DA1AC2D_80808000_0F131C1F_CAC2C80A_0C202C2C_8AA2A82A_04303434,
  0xC2D2D012_0B03080B_CEE2EC2E_C9E1E829_4D515C1D_84909414_08101818_C8F0F838,
  0x47535417_8EA2AC2E_08000808_C5C1C405_03131013_CDC1CC0D_86828406_89B1B839,
  0xCFF3FC3F_4D717C3D_C1C1C001_01313031_C5F1F435_8A82880A_4A62682A_81B1B031,
  0xC1D1D011_00202020_C7D3D417_02020002_02222022_04000404_48606828_41717031,
  0x07030407_CBD3D81B_8D919C1D_89919819_41616021_8EB2BC3E_C6E2E426_49515819,
  0xCDD1DC1D_41515011_80909010_CCD0DC1C_8A92981A_83A3A023_8BA3A82B_C0D0D010,
  0x81818001_0F030C0F_47434407_0A12181A_C3E3E023_CCE0EC2C_8D818C0D_8FB3BC3F,
  0x86929416_4B73783B_4C505C1C_82A2A022_81A1A021_43636023_03232023_4D414C0D,
  0xC8C0C808_8E929C1E_8C909C1C_0A32383A_0C000C0C_0E222C2E_8AB2B83A_4E626C2E,
  0x8F939C1F_4A52581A_C2F2F032_82929012_C3F3F033_49414809_48707838_CCC0CC0C,
  0x05111415_CBF3F83B_40707030_45717435_4F737C3F_05313435_00101010_03030003,
  0x44606424_4D616C2D_C6C2C406_44707434_C5D1D415_84B0B434_CAE2E82A_09010809,
  0x46727436_09111819_CEF2FC3E_40404000_02121012_C0E0E020_8DB1BC3D_05010405,
  0xCAF2F83A_01010001_C0F0F030_0A22282A_4E525C1E_89A1A829_46525416_43434003,
  0x85818405_04101414_89818809_8B93981B_80B0B030_C5E1E425_48404808_49717839,
  0x87939417_CCF0FC3C_0E121C1E_82828002_01212021_8C808C0C_0B13181B_4F535C1F,
  0x47737437_44505414_82B2B032_0D111C1D_05212425_4F434C0F_00000000_46424406,
  0xCDE1EC2D_48505818_42525012_CBE3E82B_4E727C3E_CAD2D81A_C9C1C809_CDF1FC3D,
  0x00303030_85919415_45616425_0C303C3C_86B2B436_C4E0E424_8BB3B83B_4C707C3C,
  0x0E020C0E_40505010_09313839_06222426_02323032_84808404_49616829_83939013,
  0x07333437_C7E3E427_04202424_84A0A424_CBC3C80B_43535013_0A02080A_87838407,
  0xC9D1D819_4C404C0C_83838003_8F838C0F_CEC2CC0E_0B33383B_4A42480A_87B3B437]

/-- The round constants in index order, 2 lines of 8 (R81). -/
def kcRows : List Nat := [
  0x9E3779B9_3C6EF373_78DDE6E6_F1BBCDCC_E3779B99_C6EF3733_8DDE6E67_1BBCDCCF,
  0x3779B99E_6EF3733C_DDE6E678_BBCDCCF1_779B99E3_EF3733C6_DE6E678D_BCDCCF1B]

/-- The byte table `S1`, 16 lines of 16 entries (R85). -/
def s1Rows : List Nat := [
  0xA9_85_D6_D3_54_1D_AC_25_5D_43_18_1E_51_FC_CA_63,
  0x28_44_20_9D_E0_E2_C8_17_A5_8F_03_7B_BB_13_D2_EE,
  0x70_8C_3F_A8_32_DD_F6_74_EC_95_0B_57_5C_5B_BD_01,
  0x24_1C_73_98_10_CC_F2_D9_2C_E7_72_83_9B_D1_86_C9,
  0x60_50_A3_EB_0D_B6_9E_4F_B7_5A_C6_78_A6_12_AF_D5,
  0x61_C3_B4_41_52_7D_8D_08_1F_99_00_19_04_53_F7_E1,
  0xFD_76_2F_27_B0_8B_0E_AB_A2_6E_93_4D_69_7C_09_0A,
  0xBF_EF_F3_C5_87_14_FE_64_DE_2E_4B_1A_06_21_6B_66,
  0x02_F5_92_8A_0C_B3_7E_D0_7A_47_96_E5_26_80_AD_DF,
  0xA1_30_37_AE_36_15_22_38_F4_A7_45_4C_81_E9_84_97,
  0x35_CB_CE_3C_71_11_C7_89_75_FB_DA_F8_94_59_82_C4,
  0xFF_49_39_67_C0_CF_D7_B8_0F_8E_42_23_91_6C_DB_A4,
  0x34_F1_48_C2_6F_3D_2D_40_BE_3E_BC_C1_AA_BA_4E_55,
  0x3B_DC_68_7F_9C_D8_4A_56_77_A0_ED_46_B5_2B_65_FA,
  0xE3_B9_B1_9F_5E_F9_E6_B2_31_EA_6D_5F_E4_F0_CD_88,
  0x16_3A_58_D4_62_29_07_33_E8_1B_05_79_90_6A_2A_9A]

/-- The byte table `S2` (R85). -/
def s2Rows : List Nat := [
  0x38_E8_2D_A6_CF_DE_B3_B8_AF_60_55_C7_44_6F_6B_5B,
  0xC3_62_33_B5_29_A0_E2_A7_D3_91_11_06_1C_BC_36_4B,
  0xEF_88_6C_A8_17_C4_16_F4_C2_45_E1_D6_3F_3D_8E_98,
  0x28_4E_F6_3E_A5_F9_0D_DF_D8_2B_66_7A_27_2F_F1_72,
  0x42_D4_41_C0_73_67_AC_8B_F7_AD_80_1F_CA_2C_AA_34,
  0xD2_0B_EE_E9_5D_94_18_F8_57_AE_08_C5_13_CD_86_B9,
  0xFF_7D_C1_31_F5_8A_6A_B1_D1_20_D7_02_22_04_68_71,
  0x07_DB_9D_99_61_BE_E6_59_DD_51_90_DC_9A_A3_AB_D0,
  0x81_0F_47_1A_E3_EC_8D_BF_96_7B_5C_A2_A1_63_23_4D,
  0xC8_9E_9C_3A_0C_2E_BA_6E_9F_5A_F2_92_F3_49_78_CC,
  0x15_FB_70_75_7F_35_10_03_64_6D_C6_74_D5_B4_EA_09,
  0x76_19_FE_40_12_E0_BD_05_FA_01_F0_2A_5E_A9_56_43,
  0x85_14_89_9B_B0_E5_48_79_97_FC_1E_82_21_8C_1B_5F,
  0x77_54_B2_1D_25_4F_00_46_ED_58_52_EB_7E_DA_C9_FD,
  0x30_95_65_3C_B6_E4_BB_7C_0E_50_39_26_32_84_69_93,
  0x37_E7_24_A4_CB_53_0A_87_D9_4C_83_8F_CE_3B_4A_B7]

/-- `SS0[b]`; the index is a byte, so every read is in range (R46, R80). -/
def ss0 (b : Byte) : Word := BitVec.ofNat 32 (tableEntry ss0Rows 8 32 b.toNat)

/-- `SS1[b]`; the index is a byte, so every read is in range (R46, R80). -/
def ss1 (b : Byte) : Word := BitVec.ofNat 32 (tableEntry ss1Rows 8 32 b.toNat)

/-- `SS2[b]`; the index is a byte, so every read is in range (R46, R80). -/
def ss2 (b : Byte) : Word := BitVec.ofNat 32 (tableEntry ss2Rows 8 32 b.toNat)

/-- `SS3[b]`; the index is a byte, so every read is in range (R46, R80). -/
def ss3 (b : Byte) : Word := BitVec.ofNat 32 (tableEntry ss3Rows 8 32 b.toNat)

/-- `KC[r]` for a key-schedule round `r` (R80, R81). -/
def kc (r : Round) : Word := BitVec.ofNat 32 (tableEntry kcRows 8 32 r.val)

/-- `S1[b]` (R85); no command reads it, `SS0` and `SS2` are built from it (R83). -/
def s1 (b : Byte) : Byte := BitVec.ofNat 8 (tableEntry s1Rows 16 8 b.toNat)

/-- `S2[b]` (R85); no command reads it, `SS1` and `SS3` are built from it (R83). -/
def s2 (b : Byte) : Byte := BitVec.ofNat 8 (tableEntry s2Rows 16 8 b.toNat)

end Sys2Proof.Machine
end

