-- ==== Sys2Proof/Machine/GFunction.lean ====
section
/-! DEFINITION. The G-function (spec 40_constant_tables.md R82, R86). -/

namespace Sys2Proof.Machine

/-- `G(x)`: the least significant byte indexes `SS0`, the most significant `SS3` (R82). -/
def gFun (x : Word) : Word :=
  ss0 (byteOf 3 x) ^^^ ss1 (byteOf 2 x) ^^^ ss2 (byteOf 1 x) ^^^ ss3 (byteOf 0 x)

end Sys2Proof.Machine
end

