-- ==== Sys2Proof/Machine/State.lean ====
section
/-! DEFINITION. The architectural state of the engine (spec 10_state.md), its reasons to stop, and the state
after reset (spec 70_reset_and_hazards.md R185, R187). -/

namespace Sys2Proof.Machine

/-- A byte space of the host: the bytes the host has written, as (offset, byte) pairs with rising
offsets. An offset that is not listed has not been written: it holds a free value, one that no listed byte is known to
equal, so a listed byte stays listed whatever its value is (log 3). -/
structure Memory where
  cells : List Host.Cell
deriving DecidableEq, Repr

/-- The canonical form: offsets strictly rising. -/
abbrev Memory.wf (m : Memory) : Prop := m.cells.Pairwise (fun a b => a.1 < b.1)

/-- A frozen direction other than `none` (R19). -/
inductive Direction where
  | encrypt
  | decrypt
deriving DecidableEq, Repr

/-- The four values of `ERR` (R24, R160; 93 U5: codes 4 to 7 do not exist in a model). -/
inductive ErrCode where
  /-- 0, the command completed normally -/
  | ok
  /-- 1 -/
  | inputShape
  /-- 2 -/
  | directionSwitch
  /-- 3 -/
  | allocFail
deriving DecidableEq, Repr

/-- The elements of `OUT`, numbers of 64, 32 or 8 bits (R25, R43). -/
inductive Elems where
  /-- the empty result has no elements -/
  | none
  | w64 (xs : List W64)
  | w32 (xs : List Word)
  | w8 (xs : List Byte)
deriving DecidableEq, Repr

/-- The output buffer with its descriptor `(rows, cols, ew)` (R25), elements in row-major order. -/
structure OutBuf where
  rows : Nat
  cols : Nat
  ew : Nat
  elems : Elems
deriving DecidableEq, Repr

/-- The *empty* result, descriptor `(0, 0, 0)` (R25). -/
def OutBuf.empty : OutBuf := { rows := 0, cols := 0, ew := 0, elems := .none }

/-- The inputs, owned by the host and only read by the engine (R23). -/
structure Inputs where
  /-- `CMD` -/
  cmd : CmdWord
  /-- `VLEN` -/
  vlen : Nat
  /-- `KLEN` -/
  klen : Nat
  /-- `VALS` -/
  vals : Memory
  /-- `KEYS` -/
  keys : Memory
  /-- The model's own, no register of the spec: it picks the free values of the bytes that the host has not written
  (93 U8, log 3). No command reads or writes it but through those bytes. -/
  fill : Nat
deriving DecidableEq, Repr

/-- The whole state. Columns hold `NV` or `NK` elements when they are loaded and none when they are not
(R12); a round tag is `none` for −1 (R15, R16). -/
structure State where
  /-- `V1` (R10) -/
  v1 : List Word
  /-- `V2` (R10) -/
  v2 : List Word
  /-- `V3` (R10) -/
  v3 : List Word
  /-- `V4` (R10) -/
  v4 : List Word
  /-- `K1` (R11) -/
  k1 : List Word
  /-- `K2` (R11) -/
  k2 : List Word
  /-- `K3` (R11) -/
  k3 : List Word
  /-- `K4` (R11) -/
  k4 : List Word
  /-- `KS0` (R13); an element that holds no value is `none` (R92) -/
  ks0 : List (Option Word)
  /-- `KS1` (R13) -/
  ks1 : List (Option Word)
  /-- `NV` (R14); `none` is "no value" (R187) -/
  nv : Option Nat
  /-- `NK` (R14); `none` is "no value" (R187) -/
  nk : Option Nat
  /-- `BLK_LOADED` (R17) -/
  blkLoaded : Bool
  /-- `KEY_LOADED` (R17) -/
  keyLoaded : Bool
  /-- `KEY_ROUND` (R15); `none` is −1 -/
  keyRound : Option Round
  /-- `BLOCK_ROUND` (R16); `none` is −1 -/
  blockRound : Option Round
  /-- `DIR` (R19) -/
  dir : Option Direction
  /-- `ERR` (R24) -/
  err : ErrCode
  /-- `OUT` (R25) -/
  out : OutBuf
  /-- `CMD`, `VLEN`, `KLEN`, `VALS`, `KEYS` (R23) -/
  inp : Inputs
  /-- the parameters of the engine (R6); nothing writes them -/
  cfg : Config
deriving DecidableEq, Repr

/-- Which of the two input spaces (R26). -/
inductive Space where
  | vals
  | keys
deriving DecidableEq, Repr

/-- The reasons the model stops. None is an error of the engine: those are next states (R168). -/
inductive Fault where
  /-- An element of `V1..V4`, or `NV`, was to be read while it holds no value (R12, 93 U7). Raised by the
  reads of the block columns. Safe: the spec says that no rule performs such a read. -/
  | noBlock
  /-- An element of `K1..K4`, or `NK`, was to be read while it holds no value (R12, 93 U7). Raised by the
  reads of the key columns. Safe, as `noBlock`. -/
  | noKey
  /-- An element of `KS0` or `KS1` was to be read while it holds no value (R12, 93 U7). Raised by the reads
  of the subkeys; a run reaches it only after the host broke buffer stability (log 8). Safe. -/
  | noSubkey
  /-- A byte at or past the length of its space was to be read (R44). Raised by the byte read of the
  loaders. Safe: the spec says that no rule performs such a read. -/
  | pastLength (sp : Space)
deriving DecidableEq, Repr

/-- The reasons the model gives a command no meaning. No command of the engine has one. -/
inductive Refusal where
  /-- An instruction of the opcode table without a meaning; no arm raises it. Safe. -/
  | notModelled (mnemonic : String)
deriving DecidableEq, Repr

/-- The host's inputs right after reset; the spec gives none ("unspecified", R187), so these are the
model's own (log 2, DESIGN CHOICE): no byte of the buffers is written, so every byte is a free value (log 3). -/
def Inputs.afterReset : Inputs :=
  { cmd := 0x0000#16, vlen := 0, klen := 0, vals := { cells := [] }, keys := { cells := [] },
    fill := 0 }

/-- The parameters of the engine that `State.reset` describes (log 4, DESIGN CHOICE). -/
def chosenConfig : Config := { nmax := 4 }

/-- The engine right after `HRESET` (R185, R187): nothing loaded, both tags −1, `DIR` none, `ERR` 0, `OUT`
empty. -/
def State.reset : State :=
  { v1 := [], v2 := [], v3 := [], v4 := []
    k1 := [], k2 := [], k3 := [], k4 := []
    ks0 := [], ks1 := []
    nv := none, nk := none
    blkLoaded := false, keyLoaded := false
    keyRound := none, blockRound := none
    dir := none, err := .ok, out := OutBuf.empty
    inp := Inputs.afterReset
    cfg := chosenConfig }

end Sys2Proof.Machine
end

