-- ==== Sys2Proof/Machine/Memory.lean ====
section
/-! DEFINITION. The operations over an input space (spec 10_state.md R26, 20_memory.md R44, R46): the reads of the
engine and the writes of the host. -/

namespace Sys2Proof.Machine

/-- The byte listed for an offset; nothing where the host has written none. -/
def lookupCell : List Host.Cell → Nat → Option Byte
  | [], _ => none
  | (a, b) :: cs, x => if a = x then some b else lookupCell cs x

/-- Put a byte at an offset, keeping offsets strictly rising. -/
def insertCell : List Host.Cell → Nat → Byte → List Host.Cell
  | [], x, b => [(x, b)]
  | (a, c) :: cs, x, b =>
    if x < a then (x, b) :: (a, c) :: cs
    else if x = a then (x, b) :: cs
    else (a, c) :: insertCell cs x b

/-- One byte of a space, as the host wrote it. -/
def Memory.read (m : Memory) (a : Nat) : Option Byte := lookupCell m.cells a

/-- The host writes one byte of a space (R23). -/
def Memory.write (m : Memory) (a : Nat) (b : Byte) : Memory := { cells := insertCell m.cells a b }

/-- The cells of bytes that stand from offset `a` on. -/
def cellsFrom : Nat → List Byte → List Host.Cell
  | _, [] => []
  | a, b :: bs => (a, b) :: cellsFrom (a + 1) bs

/-- A space that holds exactly the listed bytes from offset 0 on (R70, `.vals` and `.keys`). -/
def Memory.ofBytes (bs : List Byte) : Memory := { cells := cellsFrom 0 bs }

/-- The bytes of an input space (R26). -/
def Inputs.mem (inp : Inputs) : Space → Memory
  | .vals => inp.vals
  | .keys => inp.keys

/-- The length of an input space in bytes: `VLEN` or `KLEN` (R23, R26). -/
def Inputs.len (inp : Inputs) : Space → Nat
  | .vals => inp.vlen
  | .keys => inp.klen

/-- The value of a byte that the host has not written: any value, the same at every read of it (R48; 93 U8, log 3). -/
def Inputs.unwritten (inp : Inputs) : Space → Nat → Byte
  | .vals, a => Config.unwrittenVals inp.fill a
  | .keys, a => Config.unwrittenKeys inp.fill a

/-- What stands in an input space at an offset: the byte the host has written there, or a free value (R23, 93 U8). -/
def Inputs.byteAt (inp : Inputs) (sp : Space) (a : Nat) : Byte := ((inp.mem sp).read a).getD (inp.unwritten sp a)

/-- One byte of a `MemRead(S, addr, n)`: "defined only when `addr + n ≤` the space's length" (R44). -/
def Inputs.readByte (inp : Inputs) (sp : Space) (a : Nat) : Except Fault Byte :=
  if a < inp.len sp then .ok (inp.byteAt sp a) else .error (.pastLength sp)

end Sys2Proof.Machine
end

