-- ==== Sys2Proof/Machine/Operands.lean ====
section
/-! DEFINITION. The operands of a command: the quantities it derives from its fields and lengths (spec
30_encoding.md R63 to R68), round tags as integers, round ranges, the renaming of the block columns by parity
(43_round_engine.md R111) and the key index (R123). -/

namespace Sys2Proof.Machine

/-- The direction of a `decrypt` boolean (R65). -/
def Direction.ofDec (dec : Bool) : Direction := if dec then .decrypt else .encrypt

/-- The direction offset `df`: 0, or `MAX_ROUNDS − 1` (R19, R65). -/
def Direction.df : Direction → Nat
  | .encrypt => 0
  | .decrypt => maxRounds - 1

/-- The key-schedule round that block round `r` uses, `abs(df − r)` (R67). -/
def ksRound (d : Direction) (r : Round) : Round :=
  ⟨((d.df : Int) - (r.val : Int)).natAbs, by
    have := r.isLt
    cases d <;> simp only [Direction.df, maxRounds] <;> omega⟩

/-- `round = round_1based − 1` where `round_1based` is in [1, 16] (R60, R66). -/
def roundOf? (rnd : Nat) : Option Round :=
  if h : 1 ≤ rnd ∧ rnd ≤ 16 then some ⟨rnd - 1, by omega⟩ else none

/-- The number of 16-byte items in a buffer of `len` bytes (R68). -/
def itemCount (len : Nat) : Nat := len / blockBytes

/-- The integer of a round tag: −1, or the round (R15, R16). -/
def tagVal : Option Round → Int
  | none => -1
  | some r => (r.val : Int)

/-- The rounds 0 to 15 in increasing order. -/
def allRounds : List Round := [0, 1, 2, 3, 4, 5, 6, 7, 8, 9, 10, 11, 12, 13, 14, 15]

/-- The rounds `t + 1 .. hi` in strictly increasing order, none when `t + 1 > hi` (00_scope.md section 5). -/
def roundsAfter (t : Option Round) (hi : Round) : List Round :=
  allRounds.filter fun r => decide (tagVal t < (r.val : Int) ∧ r.val ≤ hi.val)

/-- The rounds `t + 1 .. hi − 1` in strictly increasing order. -/
def roundsBetween (t : Option Round) (hi : Round) : List Round :=
  allRounds.filter fun r => decide (tagVal t < (r.val : Int) ∧ r.val < hi.val)

/-- The columns of a block under the names `(a1, a2, a3, a4)` of round `r`: `(V1, V2, V3, V4)` in an even
round, `(V3, V4, V1, V2)` in an odd one (R111). Read the other way it gives the columns back. -/
def Quad.renamed (r : Round) (q : Quad) : Quad :=
  if r.val % 2 = 0 then q else { w1 := q.w3, w2 := q.w4, w3 := q.w1, w4 := q.w2 }

/-- The key index of block `i`: `i` when `NK = NV`, else 0 (R123). -/
def keyIndex (nk nv i : Nat) : Nat := if nk = nv then i else 0

end Sys2Proof.Machine
end

