-- ==== Sys2Proof/Machine/Ops.lean ====
section
/-! DEFINITION. The named operations over the state: reads and writes of the column registers (spec 10_state.md R10
to R14), the engine reset (70_reset_and_hazards.md R186), raising an error (60_exceptions.md R168) and a normal
end with its capture (20_memory.md R47). -/

namespace Sys2Proof.Machine

/-- `for i in ...: x[i] <- f i` over the listed indices in order; the first fault ends it. The iterations of a
phase are independent (R54), so no other order gives another result (log 6). -/
def forEach {α β : Type} (f : α → Except Fault β) : List α → Except Fault (List β)
  | [] => .ok []
  | i :: is => do
    let x ← f i
    let xs ← forEach f is
    .ok (x :: xs)

/-- The outcome of a command body: its state, or the fault it met. -/
def settle : Except Fault State → Host.Outcome State Fault Refusal
  | .ok s => .next s
  | .error e => .fault e

/-- The command word the engine samples when a command starts (R23, R56). -/
def State.fetch (s : State) : CmdWord := s.inp.cmd

/-! ### Reads of the column registers; reading an element that holds no value faults (R12). -/

/-- `NV` (R14). -/
def State.readNv (s : State) : Except Fault Nat :=
  match s.nv with
  | some n => .ok n
  | none => .error .noBlock

/-- `NK` (R14). -/
def State.readNk (s : State) : Except Fault Nat :=
  match s.nk with
  | some n => .ok n
  | none => .error .noKey

/-- `V1[i]`, `V2[i]`, `V3[i]`, `V4[i]` (R10); values exactly when `BLK_LOADED = 1` (R12). -/
def State.readBlock (s : State) (i : Nat) : Except Fault Quad :=
  if s.blkLoaded then
    match s.v1[i]?, s.v2[i]?, s.v3[i]?, s.v4[i]? with
    | some a, some b, some c, some d => .ok { w1 := a, w2 := b, w3 := c, w4 := d }
    | _, _, _, _ => .error .noBlock
  else .error .noBlock

/-- `K1[i]`, `K2[i]`, `K3[i]`, `K4[i]` (R11); values exactly when `KEY_LOADED = 1` (R12). -/
def State.readKey (s : State) (i : Nat) : Except Fault Quad :=
  if s.keyLoaded then
    match s.k1[i]?, s.k2[i]?, s.k3[i]?, s.k4[i]? with
    | some a, some b, some c, some d => .ok { w1 := a, w2 := b, w3 := c, w4 := d }
    | _, _, _, _ => .error .noKey
  else .error .noKey

/-- `KS0[i]`, `KS1[i]` (R13); values exactly when `KEY_LOADED = 1` and `KEY_ROUND ≥ 0` (R12). -/
def State.readSubkeys (s : State) (i : Nat) : Except Fault (Word × Word) :=
  if s.keyLoaded ∧ s.keyRound.isSome then
    match s.ks0[i]?, s.ks1[i]? with
    | some (some a), some (some b) => .ok (a, b)
    | _, _ => .error .noSubkey
  else .error .noSubkey

/-! ### Writes of the column registers. -/

/-- `V1..V4` take the words of the listed blocks (R10). -/
def State.setBlocks (s : State) (qs : List Quad) : State :=
  { s with
    v1 := qs.map Quad.w1
    v2 := qs.map Quad.w2
    v3 := qs.map Quad.w3
    v4 := qs.map Quad.w4 }

/-- `K1..K4` take the words of the listed keys (R11). -/
def State.setKeys (s : State) (qs : List Quad) : State :=
  { s with
    k1 := qs.map Quad.w1
    k2 := qs.map Quad.w2
    k3 := qs.map Quad.w3
    k4 := qs.map Quad.w4 }

/-- `KS0` and `KS1` take the listed subkey pairs (R102). -/
def State.setSubkeys (s : State) (ps : List (Word × Word)) : State :=
  { s with
    ks0 := ps.map fun p => some p.1
    ks1 := ps.map fun p => some p.2 }

/-- `KS0` and `KS1` are allocated with `n` elements each, holding no value (R92). -/
def State.allocSubkeys (s : State) (n : Nat) : State :=
  { s with
    ks0 := List.replicate n none
    ks1 := List.replicate n none }

/-! ### Reset, error and normal end. -/

/-- `EngineReset()`: the persistent state is dropped; `DIR`, `ERR`, `OUT` and the inputs stay (R186). -/
def State.engineReset (s : State) : State :=
  { s with
    v1 := [], v2 := [], v3 := [], v4 := []
    k1 := [], k2 := [], k3 := [], k4 := []
    ks0 := [], ks1 := []
    nv := none, nk := none
    blkLoaded := false, keyLoaded := false
    keyRound := none, blockRound := none }

/-- `raise E`, the one entry of every error: engine reset, `ERR <- code`, `OUT <- empty`, and the command ends
(R168). Nothing is saved, and there is no return from it to model (R169). -/
def State.raise (e : ErrCode) (s : State) : State :=
  { s.engineReset with err := e, out := OutBuf.empty }

/-- A capture and the normal end: `OUT` is the capture, `ERR <- 0` (R25, R47, listing L1). -/
def State.capture (o : OutBuf) (s : State) : State :=
  { s with out := o, err := .ok }

/-- The capture with one 64-bit element a row (R47). -/
def OutBuf.column64 (rows : Nat) (xs : List W64) : OutBuf :=
  { rows := rows, cols := 1, ew := 64, elems := .w64 xs }

/-- The capture with one 32-bit element a row (R47). -/
def OutBuf.column32 (rows : Nat) (xs : List Word) : OutBuf :=
  { rows := rows, cols := 1, ew := 32, elems := .w32 xs }

/-- The capture with 16 bytes a row, row-major (R47). -/
def OutBuf.bytes16 (rows : Nat) (qs : List Quad) : OutBuf :=
  { rows := rows, cols := 16, ew := 8, elems := .w8 (qs.flatMap Quad.bytes) }

end Sys2Proof.Machine
end

