-- ==== Sys2Proof/Machine/Loaders.lean ====
section
/-! DEFINITION. The block loader and the key loader (spec 41_loaders.md R90 to R93). -/

namespace Sys2Proof.Machine

/-- `b <- MemRead(S, a, 4); BE32(b[0], b[1], b[2], b[3])` (R46, R90). -/
def Inputs.readWord (inp : Inputs) (sp : Space) (a : Nat) : Except Fault Word := do
  let b0 ← inp.readByte sp a
  let b1 ← inp.readByte sp (a + 1)
  let b2 ← inp.readByte sp (a + 2)
  let b3 ← inp.readByte sp (a + 3)
  .ok (be32 b0 b1 b2 b3)

/-- The four words of item `i`: word `j` (1..4) stands at offset `16·i + 4·(j − 1)` (R45, R90). -/
def Inputs.readItem (inp : Inputs) (sp : Space) (i : Nat) : Except Fault Quad := do
  let x1 ← inp.readWord sp (16 * i)
  let x2 ← inp.readWord sp (16 * i + 4)
  let x3 ← inp.readWord sp (16 * i + 8)
  let x4 ← inp.readWord sp (16 * i + 12)
  .ok { w1 := x1, w2 := x2, w3 := x3, w4 := x4 }

/-- `Load(S, N)` (R90). -/
def Inputs.load (inp : Inputs) (sp : Space) (n : Nat) : Except Fault (List Quad) :=
  forEach (inp.readItem sp) (List.range n)

/-- Block load: `NV <- VLEN / 16`, the columns, `BLK_LOADED <- 1` (R91). -/
def State.blockLoad (s : State) : Except Fault State := do
  let n := itemCount s.inp.vlen
  let qs ← s.inp.load .vals n
  .ok { s.setBlocks qs with nv := some n, blkLoaded := true }

/-- Key load: `NK <- KLEN / 16`, the columns, `KS0` and `KS1` allocated without values, `KEY_ROUND <- −1`,
`KEY_LOADED <- 1` (R92). -/
def State.keyLoad (s : State) : Except Fault State := do
  let n := itemCount s.inp.klen
  let qs ← s.inp.load .keys n
  .ok { (s.setKeys qs).allocSubkeys n with nk := some n, keyRound := none, keyLoaded := true }

end Sys2Proof.Machine
end

