-- ==== Sys2Proof/Machine/KeySchedule.lean ====
section
/-! DEFINITION. The key-schedule engine (spec 42_key_schedule.md R95 to R105). -/

namespace Sys2Proof.Machine

/-- Odd rounds: the pair `(K1, K2)` rotated right by 8 across its 64 bits (R97). -/
def rotateOdd (k : Quad) : Quad :=
  { k with w1 := (k.w1 >>> 8) ^^^ (k.w2 <<< 24), w2 := (k.w2 >>> 8) ^^^ (k.w1 <<< 24) }

/-- Even rounds from 2 on: the pair `(K3, K4)` rotated left by 8 across its 64 bits (R98). -/
def rotateEven (k : Quad) : Quad :=
  { k with w3 := (k.w3 <<< 8) ^^^ (k.w4 >>> 24), w4 := (k.w4 <<< 8) ^^^ (k.w3 >>> 24) }

/-- The rotation done before the subkeys of key round `r` are derived: none for 0, R97 for odd, R98 for even
rounds (R97 to R99). -/
def rotateKey (r : Round) (k : Quad) : Quad :=
  if r.val = 0 then k else if r.val % 2 = 1 then rotateOdd k else rotateEven k

/-- `t0 = K1 + K3 − KC[r]`, after the rotation of round `r` (R100). -/
def subkeyT0 (r : Round) (k : Quad) : Word := k.w1 + k.w3 - kc r

/-- `t1 = K2 − K4 + KC[r]`, after the rotation of round `r` (R101). -/
def subkeyT1 (r : Round) (k : Quad) : Word := k.w2 - k.w4 + kc r

/-- The subkey pair of key round `r` from the rotated key words: `(G(t0), G(t1))` (R102). -/
def subkeyPair (r : Round) (k : Quad) : Word × Word := (gFun (subkeyT0 r k), gFun (subkeyT1 r k))

/-- `KeyStep(r)`, from round `r − 1` to round `r`: for every key index the rotation and the subkeys, then
`KEY_ROUND <- r` (R97 to R103). -/
def State.keyStep (r : Round) (s : State) : Except Fault State := do
  let n ← s.readNk
  let ks ← forEach s.readKey (List.range n)
  let rotated := ks.map (rotateKey r)
  .ok { (s.setKeys rotated).setSubkeys (rotated.map (subkeyPair r)) with keyRound := some r }

/-- `KeyStep` for each of the listed rounds in turn. -/
def State.keySteps : List Round → State → Except Fault State
  | [], s => .ok s
  | r :: rs, s => do
    let s' ← s.keyStep r
    keySteps rs s'

/-- `KeyRewind()`: `KEY_LOADED <- 0; KEY_ROUND <- −1; key load` from the buffer `KEYS` (R96). -/
def State.keyRewind (s : State) : Except Fault State :=
  State.keyLoad { s with keyLoaded := false, keyRound := none }

/-- `KeyAdvanceTo(kr)`: nothing when `KEY_ROUND = kr`, a rewind when `kr < KEY_ROUND`, then one `KeyStep` at a
time up to `kr` (R95). -/
def State.keyAdvanceTo (kr : Round) (s : State) : Except Fault State :=
  if s.keyRound = some kr then .ok s
  else do
    let s' ← if (kr.val : Int) < tagVal s.keyRound then s.keyRewind else .ok s
    s'.keySteps (roundsAfter s'.keyRound kr)

end Sys2Proof.Machine
end

