-- ==== Sys2Proof/Machine/RoundEngine.lean ====
section
/-! DEFINITION. The round engine (spec 43_round_engine.md R110 to R126). -/

namespace Sys2Proof.Machine

/-- The temporaries `x0..x8` of steps 1 to 9 for one block (R20, R112 to R120). -/
structure Temps where
  x0 : Word
  x1 : Word
  x2 : Word
  x3 : Word
  x4 : Word
  x5 : Word
  x6 : Word
  x7 : Word
  x8 : Word
deriving DecidableEq, Repr

/-- Steps 1 to 9 from the subkeys `k0`, `k1` and the columns `a3`, `a4` (R112 to R120). They write no register. -/
def roundSteps (k0 k1 a3 a4 : Word) : Temps :=
  let x0 := a3 ^^^ k0
  let x1 := a4 ^^^ k1
  let x2 := x1 ^^^ x0
  let x3 := gFun x2
  let x4 := x3 + x0
  let x5 := gFun x4
  let x6 := x5 + x3
  let x7 := gFun x6
  let x8 := x5 + x7
  { x0 := x0, x1 := x1, x2 := x2, x3 := x3, x4 := x4, x5 := x5, x6 := x6, x7 := x7, x8 := x8 }

/-- Steps 10 and 11 on the columns of one block under the names of the round: `a1 ⊕= x8`, `a2 ⊕= x7` (R121,
R122). -/
def applyRound (x : Temps) (a : Quad) : Quad := { a with w1 := a.w1 ^^^ x.x8, w2 := a.w2 ^^^ x.x7 }

/-- The columns of block `i` under the names `(a1, a2, a3, a4)` of round `r` (R111). -/
def State.readNamed (s : State) (r : Round) (i : Nat) : Except Fault Quad := do
  let q ← s.readBlock i
  .ok (q.renamed r)

/-- Steps 1 to 9 of round `r` for block `i`, with the key index of R123: the named columns of the block and the
temporaries. -/
def State.blockSteps (s : State) (r : Round) (i : Nat) : Except Fault (Quad × Temps) := do
  let nv ← s.readNv
  let nk ← s.readNk
  let a ← s.readNamed r i
  let k ← s.readSubkeys (keyIndex nk nv i)
  .ok (a, roundSteps k.1 k.2 a.w3 a.w4)

/-- Steps 1 to 9 of round `r` for every block, in index order. -/
def State.allSteps (s : State) (r : Round) : Except Fault (List (Quad × Temps)) := do
  let nv ← s.readNv
  forEach (s.blockSteps r) (List.range nv)

/-- Steps 10 and 11 of round `r` for every block, from the result of steps 1 to 9 (R121, R122). -/
def State.applyAll (r : Round) (xs : List (Quad × Temps)) (s : State) : State :=
  s.setBlocks (xs.map fun p => (applyRound p.2 p.1).renamed r)

/-- `RoundFull(r)`, steps 1 to 11 for every block, then `BLOCK_ROUND <- r` (R126, R145). -/
def State.roundFull (r : Round) (s : State) : Except Fault State := do
  let xs ← s.allSteps r
  .ok { s.applyAll r xs with blockRound := some r }

end Sys2Proof.Machine
end

