-- ==== Sys2Proof/Machine/Driver.lean ====
section
/-! DEFINITION. The common part of `EXECUTE` (spec 44_driver.md R130 to R135, R145, listing L1): checks, rewind test,
loads, the full rounds before the cut point and the key schedule of the cut point's round. -/

namespace Sys2Proof.Machine

/-- The direction step: freeze the direction, or refuse a switch (R131). -/
def State.dirStep (dec : Bool) (s : State) : Except ErrCode State :=
  match s.dir with
  | none => .ok { s with dir := some (Direction.ofDec dec) }
  | some d => if d = Direction.ofDec dec then .ok s else .error .directionSwitch

/-- The lengths pass the shape checks (a), (b), (c) of R161. -/
def Inputs.shapeOk (inp : Inputs) : Bool :=
  decide (inp.vlen % blockBytes = 0 ∧ inp.klen % blockBytes = 0 ∧
    (itemCount inp.klen = 1 ∨ itemCount inp.klen = itemCount inp.vlen))

/-- The input checks: shape first, then capacity; they give the 0-based round (R132, R167). -/
def State.inputStep (rnd : Nat) (s : State) : Except ErrCode Round :=
  match roundOf? rnd with
  | none => .error .inputShape
  | some round =>
    if s.inp.shapeOk then
      if itemCount s.inp.vlen > s.cfg.nmax then .error .allocFail else .ok round
    else .error .inputShape

/-- `if BLOCK_ROUND ≥ round: EngineReset()` (R133). -/
def State.rewindTest (round : Round) (s : State) : State :=
  if tagVal s.blockRound ≥ (round.val : Int) then s.engineReset else s

/-- `if BLK_LOADED = 0: block load` (R91, R133). -/
def State.ensureBlocks (s : State) : Except Fault State := if s.blkLoaded then .ok s else s.blockLoad

/-- `if KEY_LOADED = 0: key load` (R92, R133). -/
def State.ensureKeys (s : State) : Except Fault State := if s.keyLoaded then .ok s else s.keyLoad

/-- The rewind test and the loads (R133). -/
def State.prepare (round : Round) (s : State) : Except Fault State := do
  let s1 ← (s.rewindTest round).ensureBlocks
  s1.ensureKeys

/-- One iteration of the loop before the cut point: the key schedule, then the full round (R134, R135). -/
def State.fullRound (d : Direction) (r : Round) (s : State) : Except Fault State := do
  let s' ← s.keyAdvanceTo (ksRound d r)
  s'.roundFull r

/-- The iterations for each of the listed rounds in turn. -/
def State.fullRounds (d : Direction) : List Round → State → Except Fault State
  | [], s => .ok s
  | r :: rs, s => do
    let s' ← s.fullRound d r
    fullRounds d rs s'

/-- What every step variant does between the checks and its capture: rewind test and loads, full rounds from
`BLOCK_ROUND + 1` to `round − 1`, then the key schedule of the cut point's round (44_driver.md section 2). -/
def State.toCutPoint (d : Direction) (round : Round) (s : State) : Except Fault State := do
  let s1 ← s.prepare round
  let s2 ← s1.fullRounds d (roundsBetween s1.blockRound round)
  s2.keyAdvanceTo (ksRound d round)

/-- `EXECUTE` around a step variant: `cut` is the variant's own part, from the state at the cut point to the end of
the command (R130). -/
def runExecute (dec : Bool) (rnd : Nat) (cut : Round → State → Except Fault State) (s : State) :
    Host.Outcome State Fault Refusal :=
  match s.dirStep dec with
  | .error e => .next (s.raise e)
  | .ok s1 =>
    match s1.inputStep rnd with
    | .error e => .next (s1.raise e)
    | .ok round =>
      settle (do
        let s2 ← s1.toCutPoint (Direction.ofDec dec) round
        cut round s2)

end Sys2Proof.Machine
end

