-- ==== Sys2Proof/Machine/Control.lean ====
section
/-! DEFINITION. `RESET` (spec 44_driver.md R144) and the words that are no command of the table (30_encoding.md R69). -/

namespace Sys2Proof.Machine

/-- `RESET`: `EngineReset(); ERR <- 0`; `DIR`, `OUT` and the inputs stay (R144). -/
def execReset (s : State) : Host.Outcome State Fault Refusal := .next { s.engineReset with err := .ok }

/-- An `EXECUTE` whose step identifier is unknown: the direction step first, then `InputShape` whatever the lengths
are (R69, R132, R161 (d), R167). -/
def runUnknownStep (dec : Bool) (s : State) : Host.Outcome State Fault Refusal :=
  match s.dirStep dec with
  | .error e => .next (s.raise e)
  | .ok s1 => .next (s1.raise .inputShape)

/-- A reserved word: the effect of an `InputShape` with `DIR` untouched (R69; log 7). -/
def runReserved (s : State) : Host.Outcome State Fault Refusal := .next (s.raise .inputShape)

end Sys2Proof.Machine
end

