-- ==== Sys2Proof/Machine/Execute.lean ====
section
/-! DEFINITION. The meanings of the eight step variants of `EXECUTE` (spec 44_driver.md R136 to R143, R146): each is
the common part with its own cut point. -/

namespace Sys2Proof.Machine

/-- RoundKey: one row per key, `KS0[i] ∥ KS1[i]`; the round is not begun (R136). -/
def cutRkey (_round : Round) (s : State) : Except Fault State := do
  let n ← s.readNk
  let ps ← forEach s.readSubkeys (List.range n)
  .ok (s.capture (OutBuf.column64 n (ps.map fun p => packPair p.1 p.2)))

/-- Right: `a3[i] ∥ a4[i]` before the round (R137). -/
def cutRight (round : Round) (s : State) : Except Fault State := do
  let n ← s.readNv
  let as ← forEach (s.readNamed round) (List.range n)
  .ok (s.capture (OutBuf.column64 n (as.map fun a => packPair a.w3 a.w4)))

/-- AddRoundKey: `x0 ∥ x2`, steps 10 and 11 skipped (R138, R146). -/
def cutArk (round : Round) (s : State) : Except Fault State := do
  let n ← s.readNv
  let xs ← s.allSteps round
  .ok (s.capture (OutBuf.column64 n (xs.map fun p => packPair p.2.x0 p.2.x2)))

/-- GDa: `x3`, steps 10 and 11 skipped (R139, R146). -/
def cutGda (round : Round) (s : State) : Except Fault State := do
  let n ← s.readNv
  let xs ← s.allSteps round
  .ok (s.capture (OutBuf.column32 n (xs.map fun p => p.2.x3)))

/-- GC: `x5`, steps 10 and 11 skipped (R140, R146). -/
def cutGc (round : Round) (s : State) : Except Fault State := do
  let n ← s.readNv
  let xs ← s.allSteps round
  .ok (s.capture (OutBuf.column32 n (xs.map fun p => p.2.x5)))

/-- GDb: `x7`, steps 10 and 11 skipped (R141, R146). -/
def cutGdb (round : Round) (s : State) : Except Fault State := do
  let n ← s.readNv
  let xs ← s.allSteps round
  .ok (s.capture (OutBuf.column32 n (xs.map fun p => p.2.x7)))

/-- F: `x8 ∥ x7`, and the round is completed, so `BLOCK_ROUND <- round` (R142, R145). -/
def cutF (round : Round) (s : State) : Except Fault State := do
  let n ← s.readNv
  let xs ← s.allSteps round
  let s' := { s.applyAll round xs with blockRound := some round }
  .ok (s'.capture (OutBuf.column64 n (xs.map fun p => packPair p.2.x8 p.2.x7)))

/-- Output: the full round, `BLOCK_ROUND <- round`, then the 16 bytes of `a1, a2, a3, a4` of every block (R143). -/
def cutOut (round : Round) (s : State) : Except Fault State := do
  let s' ← s.roundFull round
  let n ← s'.readNv
  let as ← forEach (s'.readNamed round) (List.range n)
  .ok (s'.capture (OutBuf.bytes16 n as))

/-- `EXEC.RKEY` (R136). -/
def execRkey (dec : Bool) (rnd : Nat) (s : State) : Host.Outcome State Fault Refusal :=
  runExecute dec rnd cutRkey s

/-- `EXEC.RIGHT` (R137). -/
def execRight (dec : Bool) (rnd : Nat) (s : State) : Host.Outcome State Fault Refusal :=
  runExecute dec rnd cutRight s

/-- `EXEC.ARK` (R138). -/
def execArk (dec : Bool) (rnd : Nat) (s : State) : Host.Outcome State Fault Refusal :=
  runExecute dec rnd cutArk s

/-- `EXEC.GDA` (R139). -/
def execGda (dec : Bool) (rnd : Nat) (s : State) : Host.Outcome State Fault Refusal :=
  runExecute dec rnd cutGda s

/-- `EXEC.GC` (R140). -/
def execGc (dec : Bool) (rnd : Nat) (s : State) : Host.Outcome State Fault Refusal :=
  runExecute dec rnd cutGc s

/-- `EXEC.GDB` (R141). -/
def execGdb (dec : Bool) (rnd : Nat) (s : State) : Host.Outcome State Fault Refusal :=
  runExecute dec rnd cutGdb s

/-- `EXEC.F` (R142). -/
def execF (dec : Bool) (rnd : Nat) (s : State) : Host.Outcome State Fault Refusal :=
  runExecute dec rnd cutF s

/-- `EXEC.OUT` (R143). -/
def execOut (dec : Bool) (rnd : Nat) (s : State) : Host.Outcome State Fault Refusal :=
  runExecute dec rnd cutOut s

end Sys2Proof.Machine
end

