-- ==== Sys2Proof/Machine/Dispatch.lean ====
section
/-! DEFINITION. One arm per command. -/

namespace Sys2Proof.Machine

def exec (i : Instr) (s : State) : Host.Outcome State Fault Refusal :=
  match i with
  | .reset => Sys2Proof.Machine.execReset s
  | .rkey dec rnd => Sys2Proof.Machine.execRkey dec rnd s
  | .right dec rnd => Sys2Proof.Machine.execRight dec rnd s
  | .ark dec rnd => Sys2Proof.Machine.execArk dec rnd s
  | .gda dec rnd => Sys2Proof.Machine.execGda dec rnd s
  | .gc dec rnd => Sys2Proof.Machine.execGc dec rnd s
  | .gdb dec rnd => Sys2Proof.Machine.execGdb dec rnd s
  | .f dec rnd => Sys2Proof.Machine.execF dec rnd s
  | .out dec rnd => Sys2Proof.Machine.execOut dec rnd s

end Sys2Proof.Machine
end

