-- ==== Sys2Proof/Machine/Step.lean ====
section
/-! DEFINITION. One step is one host command: the word in `CMD` is decoded and the command runs to completion (spec
20_memory.md R51, 30_encoding.md R62; log 1). -/

namespace Sys2Proof.Machine

/-- The command whose word stands in `CMD`, from its start to its end. -/
def step (s : State) : Host.Outcome State Fault Refusal :=
  match decode s.fetch with
  | .instr i => exec i s
  | .unknownStep dec _ _ => runUnknownStep dec s
  | .reserved _ => runReserved s

/-- The host writes the word to `CMD`; nothing else is needed for it to run (R23; log 1). -/
def State.withFetchWord (s : State) (nbits w : Nat) : State :=
  { s with inp := { s.inp with cmd := tableWord nbits w } }

end Sys2Proof.Machine
end

