-- ==== Sys2Proof/Machine/ClosedForm.lean ====
section
/-! DEFINITION. The closed form of the byte tables `S1` and `S2` (spec 40_constant_tables.md R88), "given for
cross-checking the listings only": no command uses it. -/

namespace Sys2Proof.Machine

/-- Multiplication by x in GF(2^8) with the polynomial `0x163` (R88). -/
def gfDouble (a : Nat) : Nat := if 2 * a < 256 then 2 * a else (2 * a) ^^^ 0x163

/-- The product, from the lowest `n` bits of `b` (R88). -/
def gfMulBits : Nat → Nat → Nat → Nat
  | 0, _, _ => 0
  | n + 1, a, b => (if b % 2 = 1 then a else 0) ^^^ gfMulBits n (gfDouble a) (b / 2)

/-- The product of two field elements, bytes as numbers (R88). -/
def gfMul (a b : Nat) : Nat := gfMulBits 8 a b

/-- The power of a field element whose exponent has at most `n` bits (R88). -/
def gfPowBits : Nat → Nat → Nat → Nat
  | 0, _, _ => 1
  | n + 1, a, e =>
    if e % 2 = 1 then gfMul a (gfPowBits n (gfMul a a) (e / 2)) else gfPowBits n (gfMul a a) (e / 2)

/-- The power of a field element with an 8-bit exponent (R88). -/
def gfPow (a e : Nat) : Nat := gfPowBits 8 a e

/-- The linear map on bytes with the listed images of the input bits, bit 0 first (R88). -/
def linearMap : List Nat → Nat → Nat
  | [], _ => 0
  | v :: vs, x => (if x % 2 = 1 then v else 0) ^^^ linearMap vs (x / 2)

/-- `A1·(b^247) XOR 0xA9` (R88). -/
def s1Closed (b : Byte) : Byte :=
  BitVec.ofNat 8 (linearMap [0x2C, 0xD0, 0x69, 0xC2, 0x41, 0x44, 0x58, 0xE2] (gfPow b.toNat 247) ^^^ 0xA9)

/-- `A2·(b^251) XOR 0x38` (R88). -/
def s2Closed (b : Byte) : Byte :=
  BitVec.ofNat 8 (linearMap [0xD0, 0x2A, 0xE1, 0x2C, 0x21, 0x30, 0xA2, 0x6C] (gfPow b.toNat 251) ^^^ 0x38)

end Sys2Proof.Machine
end

