-- ==== Sys2Proof/Machine/Flags.lean ====
section
/-! DEFINITION. The status and control registers as bit fields. The engine has no condition codes (spec 10_state.md
R22); what the host can see as status is `ERR` and the output descriptor, and the field encodings below are those
of R15, R16, R19 and R24. -/

namespace Sys2Proof.Machine

/-- The 3-bit code of `ERR` (R24, R160). -/
def ErrCode.code : ErrCode → BitVec 3
  | .ok => 0
  | .inputShape => 1
  | .directionSwitch => 2
  | .allocFail => 3

/-- The 5-bit field of `KEY_ROUND` and `BLOCK_ROUND`, two's complement (R15, R16). -/
def tagField (t : Option Round) : BitVec 5 := BitVec.ofInt 5 (tagVal t)

/-- The 2-bit field of `DIR`: `00` none, `01` encrypt, `10` decrypt (R19). -/
def dirField : Option Direction → BitVec 2
  | none => 0
  | some .encrypt => 1
  | some .decrypt => 2

/-- How many elements stand in `OUT`. -/
def Elems.count : Elems → Nat
  | .none => 0
  | .w64 xs => xs.length
  | .w32 xs => xs.length
  | .w8 xs => xs.length

/-- The element width that goes with the elements (R47). -/
def Elems.width : Elems → Nat
  | .none => 0
  | .w64 _ => 64
  | .w32 _ => 32
  | .w8 _ => 8

/-- Element `n` of `OUT` as a number, as the host reads it (R43, R49); none past the last element. -/
def OutBuf.element (o : OutBuf) (n : Nat) : Option Nat :=
  match o.elems with
  | .none => none
  | .w64 xs => xs[n]?.map BitVec.toNat
  | .w32 xs => xs[n]?.map BitVec.toNat
  | .w8 xs => xs[n]?.map BitVec.toNat

end Sys2Proof.Machine
end

