-- ==== Sys2Proof/Machine/HostSide.lean ====
section
/-! DEFINITION. What the host does to the engine between commands (spec 10_state.md R23, 30_encoding.md R70,
70_reset_and_hazards.md R185, R188): writes of the inputs, the reset event, and sequences of them with commands. -/

namespace Sys2Proof.Machine

/-- `HRESET`, "the state of a fresh engine" (R185). The inputs are not driven by the engine and are unspecified
after it (R187, 93 U8), so what stands in them afterwards is an argument (log 9). -/
def State.hreset (after : Inputs) (s : State) : State :=
  { s.engineReset with dir := none, err := .ok, out := OutBuf.empty, inp := after }

/-- The host writes `CMD` (R23). -/
def State.writeCmd (w : CmdWord) (s : State) : State := { s with inp := { s.inp with cmd := w } }

/-- The host writes `VLEN` (R23). -/
def State.writeVlen (n : Nat) (s : State) : State := { s with inp := { s.inp with vlen := n } }

/-- The host writes `KLEN` (R23). -/
def State.writeKlen (n : Nat) (s : State) : State := { s with inp := { s.inp with klen := n } }

/-- The host writes one byte of `VALS` (R23). -/
def State.writeVal (a : Nat) (b : Byte) (s : State) : State :=
  { s with inp := { s.inp with vals := s.inp.vals.write a b } }

/-- The host writes one byte of `KEYS` (R23). -/
def State.writeKey (a : Nat) (b : Byte) (s : State) : State :=
  { s with inp := { s.inp with keys := s.inp.keys.write a b } }

/-- The directive `.vals <hex bytes>`: `VALS` and `VLEN` are the listed bytes and their count (R70). -/
def State.setVals (bs : List Byte) (s : State) : State :=
  { s with inp := { s.inp with vals := Memory.ofBytes bs, vlen := bs.length } }

/-- The directive `.keys <hex bytes>` (R70). -/
def State.setKeyBytes (bs : List Byte) (s : State) : State :=
  { s with inp := { s.inp with keys := Memory.ofBytes bs, klen := bs.length } }

/-- An act of the host between commands, or a command (R70, R188). -/
inductive HostAct where
  | hreset (after : Inputs)
  | vlen (n : Nat)
  | klen (n : Nat)
  | val (a : Nat) (b : Byte)
  | key (a : Nat) (b : Byte)
  | vals (bs : List Byte)
  | keys (bs : List Byte)
  | command (w : CmdWord)
deriving DecidableEq, Repr

/-- One act; writing `CMD` is the call of the command (R23, R51). -/
def State.act : HostAct → State → Host.Outcome State Fault Refusal
  | .hreset after, s => .next (s.hreset after)
  | .vlen n, s => .next (s.writeVlen n)
  | .klen n, s => .next (s.writeKlen n)
  | .val a b, s => .next (s.writeVal a b)
  | .key a b, s => .next (s.writeKey a b)
  | .vals bs, s => .next (s.setVals bs)
  | .keys bs, s => .next (s.setKeyBytes bs)
  | .command w, s => step (s.writeCmd w)

/-- A sequence of acts; "the next command sees all of its state changes" (R51). -/
def State.acts : List HostAct → State → Host.Outcome State Fault Refusal
  | [], s => .next s
  | a :: as, s =>
    match s.act a with
    | .next s' => State.acts as s'
    | .fault e => .fault e
    | .refused r => .refused r

end Sys2Proof.Machine
end

