-- ==== Sys2Proof/Machine/Stateless.lean ====
section
/-! DEFINITION. The result of `EXECUTE` without persistent state (spec 44_driver.md R149): "load, run rounds 0..`round`
− 1 in full, run round `round` to the cut point", as functions of the loaded words alone. No command runs these
functions; claims compare the driver with them. -/

namespace Sys2Proof.Machine

/-- The key state at key round `k` in closed form: `K1 ∥ K2` rotated right by `8·ceil(k/2)` and `K3 ∥ K4` rotated left
by `8·floor(k/2)` (42_key_schedule.md R104). -/
def keyState (k : Round) (key : Quad) : Quad :=
  let ab := (packPair key.w1 key.w2).rotateRight (8 * ((k.val + 1) / 2))
  let cd := (packPair key.w3 key.w4).rotateLeft (8 * (k.val / 2))
  { w1 := ab.extractLsb' 32 32, w2 := ab.extractLsb' 0 32, w3 := cd.extractLsb' 32 32, w4 := cd.extractLsb' 0 32 }

/-- The subkeys of key round `k` "depend only on the loaded key words and on `k`" (R104). -/
def subkeysOf (k : Round) (key : Quad) : Word × Word := subkeyPair k (keyState k key)

/-- The temporaries of block round `r` for one block and its key (R112 to R120). -/
def tempsOf (d : Direction) (key : Quad) (r : Round) (q : Quad) : Temps :=
  let k := subkeysOf (ksRound d r) key
  roundSteps k.1 k.2 (q.renamed r).w3 (q.renamed r).w4

/-- Block round `r` on one block (R126). -/
def roundOf (d : Direction) (key : Quad) (r : Round) (q : Quad) : Quad :=
  (applyRound (tempsOf d key r q) (q.renamed r)).renamed r

/-- The F-function `F(k0, k1, c, d)` in closed form: its upper and its lower word (R120, R126). -/
def fValue (k0 k1 c d : Word) : Word × Word :=
  let u := (c ^^^ k0) ^^^ (d ^^^ k1)
  let m := gFun (gFun u + (c ^^^ k0))
  let lo := gFun (m + gFun u)
  (m + lo, lo)

/-- The textbook recursion `L_{n+1} = R_n`, `R_{n+1} = L_n ⊕ F(subkey_n, R_n)` from `L_0 = V1 ∥ V2`, `R_0 = V3 ∥ V4`
as loaded (R110, R125): the halves `(L_n, R_n)`, each as two words. -/
def feistel (d : Direction) (key q : Quad) : Nat → (Word × Word) × (Word × Word)
  | 0 => ((q.w1, q.w2), (q.w3, q.w4))
  | n + 1 =>
    let h := feistel d key q n
    let k := subkeysOf (ksRound d (Fin.ofNat 16 n)) key
    let f := fValue k.1 k.2 h.2.1 h.2.2
    (h.2, (h.1.1 ^^^ f.1, h.1.2 ^^^ f.2))

/-- The rounds 0 to `t`, none for −1. -/
def roundsUpTo : Option Round → List Round
  | none => []
  | some r => roundsAfter none r

/-- One block after rounds 0 to `t` (R16). -/
def blockAfter (d : Direction) (key : Quad) (t : Option Round) (q : Quad) : Quad :=
  (roundsUpTo t).foldl (fun b r => roundOf d key r b) q

/-- The position before round `r`: `r − 1`, which is −1 for `r = 0` (R145). -/
def before (r : Round) : Option Round := if r.val = 0 then none else some (r - 1)

/-- Every block with its key: the one key for all of them, or one key per block (R123). -/
def pairUp (blocks keys : List Quad) : List (Quad × Quad) :=
  match keys with
  | [k] => blocks.map fun q => (q, k)
  | ks => blocks.zip ks

/-- One block as the cut-point round finds it: after all earlier rounds (R149). -/
def blockAtCut (d : Direction) (round : Round) (p : Quad × Quad) : Quad := blockAfter d p.2 (before round) p.1

/-- The temporaries of the cut-point round for one block and its key. -/
def tempsAtCut (d : Direction) (round : Round) (p : Quad × Quad) : Temps := tempsOf d p.2 round (blockAtCut d round p)

/-- The output of `EXECUTE` at the cut point (`round`, `st`) from the loaded blocks and keys (R136 to R143, R149). -/
def statelessOut (d : Direction) (round : Round) (st : StepId) (blocks keys : List Quad) : OutBuf :=
  let n := blocks.length
  let ps := pairUp blocks keys
  match st with
  | .rkey =>
    OutBuf.column64 keys.length
      (keys.map fun k => packPair (subkeysOf (ksRound d round) k).1 (subkeysOf (ksRound d round) k).2)
  | .right =>
    OutBuf.column64 n (ps.map fun p =>
      packPair ((blockAtCut d round p).renamed round).w3 ((blockAtCut d round p).renamed round).w4)
  | .ark => OutBuf.column64 n (ps.map fun p => packPair (tempsAtCut d round p).x0 (tempsAtCut d round p).x2)
  | .gda => OutBuf.column32 n (ps.map fun p => (tempsAtCut d round p).x3)
  | .gc => OutBuf.column32 n (ps.map fun p => (tempsAtCut d round p).x5)
  | .gdb => OutBuf.column32 n (ps.map fun p => (tempsAtCut d round p).x7)
  | .f => OutBuf.column64 n (ps.map fun p => packPair (tempsAtCut d round p).x8 (tempsAtCut d round p).x7)
  | .out => OutBuf.bytes16 n (ps.map fun p => (blockAfter d p.2 (some round) p.1).renamed round)

/-- `BLOCK_ROUND` after a command with cut point (`round`, `st`) (R145). -/
def positionAfter (round : Round) : StepId → Option Round
  | .rkey => before round
  | .right => before round
  | .ark => before round
  | .gda => before round
  | .gc => before round
  | .gdb => before round
  | .f => some round
  | .out => some round

/-- The key part of the state as it is at key round `kr` of the loaded `keys` (R104, R147). -/
def State.withKeysAt (kr : Round) (keys : List Quad) (s : State) : State :=
  { (s.setKeys (keys.map (keyState kr))).setSubkeys (keys.map (subkeysOf kr)) with
    nk := some keys.length, keyLoaded := true, keyRound := some kr }

/-- The block part of the state as it is at position `br` of the loaded `blocks` under `keys` (R16, R147). -/
def State.withBlocksAt (d : Direction) (br : Option Round) (blocks keys : List Quad) (s : State) : State :=
  { s.setBlocks ((pairUp blocks keys).map fun p => blockAfter d p.2 br p.1) with
    nv := some blocks.length, blkLoaded := true, blockRound := br }

/-- The state whose persistent part is that of the loaded `blocks` and `keys` in direction `d`, with key tag `kr` and
position `br`; everything else as in `s` (R104, R147). -/
def State.withLive (d : Direction) (blocks keys : List Quad) (kr : Round) (br : Option Round) (s : State) : State :=
  (s.withBlocksAt d br blocks keys).withKeysAt kr keys

end Sys2Proof.Machine
end

