-- ==== Sys2Proof/Safety.lean ====
section
/-! DEFINITION. What counts as a sound state of the engine, in the terms the claims use: the invariants of spec
10_state.md R12 and R18, and the condition under which the laws of 44_driver.md R148 are stated (R197). -/

namespace Sys2Proof.Machine

/-- The invariants that hold between commands whatever the host does with its buffers. -/
structure State.Wf (s : State) : Prop where
  /-- a block column that is not loaded holds no value, and nothing was applied (R12, R18 item 5) -/
  blkOff : s.blkLoaded = false →
    s.v1 = [] ∧ s.v2 = [] ∧ s.v3 = [] ∧ s.v4 = [] ∧ s.nv = none ∧ s.blockRound = none
  /-- loaded block columns have `NV` elements, at most `NMAX` (R18 item 3, R6) -/
  blkOn : s.blkLoaded = true →
    ∃ n, s.nv = some n ∧ n ≤ s.cfg.nmax ∧
      s.v1.length = n ∧ s.v2.length = n ∧ s.v3.length = n ∧ s.v4.length = n
  /-- a key column that is not loaded holds no value, and there are no subkeys (R12, R18 item 5) -/
  keyOff : s.keyLoaded = false →
    s.k1 = [] ∧ s.k2 = [] ∧ s.k3 = [] ∧ s.k4 = [] ∧ s.ks0 = [] ∧ s.ks1 = [] ∧ s.nk = none ∧ s.keyRound = none
  /-- loaded key columns and subkey registers have `NK` elements (R18 item 3) -/
  keyOn : s.keyLoaded = true →
    ∃ n, s.nk = some n ∧ s.k1.length = n ∧ s.k2.length = n ∧ s.k3.length = n ∧ s.k4.length = n ∧
      s.ks0.length = n ∧ s.ks1.length = n
  /-- the elements of the subkey registers have values exactly when `KEY_ROUND ≥ 0` (R12) -/
  subkeys : ∀ x, x ∈ s.ks0 ∨ x ∈ s.ks1 → (x.isSome ↔ s.keyRound.isSome)
  /-- a position means a direction and loaded columns (R18 item 6) -/
  position : s.blockRound.isSome → s.dir.isSome ∧ s.blkLoaded = true ∧ s.keyLoaded = true
  /-- the descriptor of `OUT` describes its elements (R25, R47) -/
  outWidth : s.out.ew = s.out.elems.width
  outCount : s.out.rows * s.out.cols = s.out.elems.count
  /-- the input spaces keep their canonical form -/
  valsForm : s.inp.vals.wf
  keysForm : s.inp.keys.wf
  /-- the parameter is legal (R6) -/
  config : s.cfg.legal

/-- Nothing persistent is loaded: the state every reset leaves (R186). -/
def State.Fresh (s : State) : Prop := s.engineReset = s

/-- The persistent part is that of the buffers as they are now: "valid only for one concrete (direction, key-batch,
block-batch)" (R18 item 4, R197). -/
def State.Live (s : State) : Prop :=
  ∃ d blocks keys kr,
    s.dir = some d ∧ s.inp.shapeOk = true ∧ itemCount s.inp.vlen ≤ s.cfg.nmax ∧
    s.inp.load .vals (itemCount s.inp.vlen) = .ok blocks ∧
    s.inp.load .keys (itemCount s.inp.klen) = .ok keys ∧
    s = s.withLive d blocks keys kr s.blockRound

/-- Buffer stability as a property of a state: what is loaded, if anything, comes from the buffers as they are (R197). -/
def State.Coherent (s : State) : Prop := s.Fresh ∨ s.Live

/-- An `EXECUTE` with these operands passes its checks: direction, shape and capacity (R131, R132). -/
def State.Accepts (s : State) (dec : Bool) (rnd : Nat) : Prop :=
  (s.dir = none ∨ s.dir = some (Direction.ofDec dec)) ∧ 1 ≤ rnd ∧ rnd ≤ 16 ∧
    s.inp.shapeOk = true ∧ itemCount s.inp.vlen ≤ s.cfg.nmax

/-- The columns, counts, tags, flags and direction: the persistent part, which the host cannot read (R27). -/
def State.samePersistent (s t : State) : Prop :=
  s.v1 = t.v1 ∧ s.v2 = t.v2 ∧ s.v3 = t.v3 ∧ s.v4 = t.v4 ∧
    s.k1 = t.k1 ∧ s.k2 = t.k2 ∧ s.k3 = t.k3 ∧ s.k4 = t.k4 ∧ s.ks0 = t.ks0 ∧ s.ks1 = t.ks1 ∧
    s.nv = t.nv ∧ s.nk = t.nk ∧ s.blkLoaded = t.blkLoaded ∧ s.keyLoaded = t.keyLoaded ∧
    s.keyRound = t.keyRound ∧ s.blockRound = t.blockRound ∧ s.dir = t.dir

/-! ### Terms of the statements about single commands. -/

/-- A fresh engine into whose buffers the host has just written the listed bytes (R185, R188, R70). -/
def State.freshWith (s : State) (ps ks : List Byte) : State := ((s.hreset s.inp).setVals ps).setKeyBytes ks

/-- What every successful `EXECUTE` leaves besides `OUT` and the columns, whatever its step: the direction, no error,
the flags, the counts, both tags, and the inputs and the parameters as they were (R147). -/
def State.Completed (s : State) (dec : Bool) (round : Round) (position : Option Round) (t : State) : Prop :=
  t.dir = some (Direction.ofDec dec) ∧ t.err = .ok ∧ t.inp = s.inp ∧ t.cfg = s.cfg ∧
    t.blkLoaded = true ∧ t.keyLoaded = true ∧
    t.nv = some (s.inp.vlen / 16) ∧ t.nk = some (s.inp.klen / 16) ∧
    t.keyRound = some (ksRound (Direction.ofDec dec) round) ∧ t.blockRound = position

/-- Block `i` has the columns `a` under the names of the round, and the subkeys of its key index are `k` (R111, R123). -/
def State.Sees (s : State) (round : Round) (i : Nat) (a : Quad) (k : Word × Word) : Prop :=
  s.readNamed round i = .ok a ∧ ∃ nv nk, s.nv = some nv ∧ s.nk = some nk ∧ s.readSubkeys (keyIndex nk nv i) = .ok k

/-- The key columns, the subkeys, their count and their tag. -/
def State.sameKeys (s t : State) : Prop :=
  s.k1 = t.k1 ∧ s.k2 = t.k2 ∧ s.k3 = t.k3 ∧ s.k4 = t.k4 ∧ s.ks0 = t.ks0 ∧ s.ks1 = t.ks1 ∧
    s.nk = t.nk ∧ s.keyLoaded = t.keyLoaded ∧ s.keyRound = t.keyRound

/-- The state at the cut point of a command that passes its checks: direction frozen, prefix run (R131 to R135). -/
def State.prefixOf (s : State) (dec : Bool) (round : Round) : Except Fault State :=
  State.toCutPoint (Direction.ofDec dec) round { s with dir := some (Direction.ofDec dec) }

/-- The descriptor `(rows, cols, ew)` of the capture of a step (R47). -/
def captureShape (nv nk : Nat) : StepId → Nat × Nat × Nat
  | .rkey => (nk, 1, 64)
  | .right => (nv, 1, 64)
  | .ark => (nv, 1, 64)
  | .gda => (nv, 1, 32)
  | .gc => (nv, 1, 32)
  | .gdb => (nv, 1, 32)
  | .f => (nv, 1, 64)
  | .out => (nv, 16, 8)

end Sys2Proof.Machine
end

