-- ==== Sys2Proof/Machine/Contract.lean ====
section
/-! DEFINITION. The seven properties of the engine that its source lists as holding "for all valid inputs" (spec
44_driver.md R148), each a predicate on an engine, in terms of the commands that the host issues and the `OUT` that it
reads. R148 makes them consequences of the other rules, "to be proved of a model": no command runs anything in this
file, and a statement says that the engine has all seven. -/

namespace Sys2Proof.Machine

/-- What a command gives the host: `OUT` after its word is written to `CMD` and the command ends without an error (R148,
R198); nothing after an error. -/
def State.result (i : Instr) (s : State) : Option OutBuf :=
  match step (s.writeCmd (encode i)) with
  | .next t => if t.err = .ok then some t.out else none
  | .fault _ => none
  | .refused _ => none

/-- The result of a command on a fresh engine: after `HRESET` and the host's writes of the buffers (R148, R185, R188). -/
def State.freshResult (i : Instr) (vals keys : List Byte) (s : State) : Option OutBuf :=
  (s.freshWith vals keys).result i

/-- Inputs that an `EXECUTE` of a fresh engine accepts: whole blocks, one key or a key per block, no more blocks than
`NMAX`, a round from 1 to 16 (R132). -/
def State.ValidInputs (s : State) (vals keys : List Byte) (rnd : Nat) : Prop :=
  vals.length % 16 = 0 ∧ (keys.length = 16 ∨ keys.length = vals.length) ∧ vals.length / 16 ≤ s.cfg.nmax ∧
    1 ≤ rnd ∧ rnd ≤ 16

/-- The one row of `u` is row `n` of `o`: the same shape and the same elements (R47). -/
def OutBuf.isRowOf (u o : OutBuf) (n : Nat) : Prop :=
  u.rows = 1 ∧ u.cols = o.cols ∧ u.ew = o.ew ∧ ∀ c, c < o.cols → u.element c = o.element (o.cols * n + c)

/-- Property 1, encrypt/decrypt inverse: `decrypt(encrypt(P, K), K) == P` through the core, with an `HRESET` between the
two runs because the direction changes (R148, R131, 90_conflicts.md C5). -/
def State.DecryptInvertsEncrypt (s : State) : Prop :=
  ∀ p k : List Byte, p.length = 16 → k.length = 16 → ∃ t c,
    step ((s.freshWith p k).writeCmd (encode pseudoEncrypt)) = .next t ∧ t.err = .ok ∧
    t.out = { rows := 1, cols := 16, ew := 8, elems := .w8 c } ∧
    t.freshResult pseudoDecrypt c k = some { rows := 1, cols := 16, ew := 8, elems := .w8 p }

/-- Property 2, batch equivalence: one batch call with a key per block gives, in order, the rows of the single-block
calls, at every step and round and in both directions (R148). -/
def State.BatchEquivalence (s : State) : Prop :=
  ∀ (pks : List (List Byte × List Byte)) (st : StepId) (dec : Bool) (rnd : Nat),
    (∀ q, q ∈ pks → q.1.length = 16 ∧ q.2.length = 16) → pks.length ≤ s.cfg.nmax → 1 ≤ rnd → rnd ≤ 16 → ∃ o,
    s.freshResult (Instr.ofStep st dec rnd) (pks.map Prod.fst).flatten (pks.map Prod.snd).flatten = some o ∧
    o.rows = pks.length ∧
    ∀ n q, pks[n]? = some q → ∃ u, s.freshResult (Instr.ofStep st dec rnd) q.1 q.2 = some u ∧ u.isRowOf o n

/-- Property 3, key broadcast: with one key a batch call gives the rows of the calls for each block with that key; the
capture of RoundKey has the one row of that key (R148, R136). -/
def State.KeyBroadcast (s : State) : Prop :=
  ∀ (ps : List (List Byte)) (k : List Byte) (st : StepId) (dec : Bool) (rnd : Nat),
    (∀ p, p ∈ ps → p.length = 16) → k.length = 16 → ps.length ≤ s.cfg.nmax → 1 ≤ rnd → rnd ≤ 16 → ∃ o,
    s.freshResult (Instr.ofStep st dec rnd) ps.flatten k = some o ∧
    o.rows = (if st = .rkey then 1 else ps.length) ∧
    ∀ n p, ps[n]? = some p → ∃ u, s.freshResult (Instr.ofStep st dec rnd) p k = some u ∧
      u.isRowOf o (if st = .rkey then 0 else n)

/-- Property 4, G-function determinism: G is the source's expression in its operand, and so a pure function of it
(R148, R86). -/
def GDeterminism : Prop :=
  ∀ x : Word, gFun x =
    ss0 ((x &&& 0xff#32).setWidth 8) ^^^ ss1 (((x >>> 8) &&& 0xff#32).setWidth 8) ^^^
      ss2 (((x >>> 16) &&& 0xff#32).setWidth 8) ^^^ ss3 (((x >>> 24) &&& 0xff#32).setWidth 8)

/-- The host's writes of the words of `EXECUTE` commands of one direction, one after another. -/
def executeActs (dec : Bool) (cuts : List (StepId × Nat)) : List HostAct :=
  cuts.map fun c => .command (encode (Instr.ofStep c.1 dec c.2))

/-- Property 5, persisted-prefix equivalence: a call gives the same whether or not the engine has been called with lower
rounds before on the same buffers in the same direction (R148). -/
def State.PrefixEquivalence (s : State) : Prop :=
  ∀ (vals keys : List Byte) (earlier : List (StepId × Nat)) (st : StepId) (dec : Bool) (rnd : Nat),
    s.ValidInputs vals keys rnd → (∀ c, c ∈ earlier → c.2 < rnd) → ∃ u o,
    State.acts (executeActs dec earlier) (s.freshWith vals keys) = .next u ∧
    u.result (Instr.ofStep st dec rnd) = some o ∧ s.freshResult (Instr.ofStep st dec rnd) vals keys = some o

/-- Property 6, rewind safety: the second of two calls, for the same or a lower round, gives the same as on a fresh
engine (R148). -/
def State.RewindSafety (s : State) : Prop :=
  ∀ (vals keys : List Byte) (st1 st2 : StepId) (dec : Bool) (rnd1 rnd2 : Nat),
    s.ValidInputs vals keys rnd1 → s.ValidInputs vals keys rnd2 → rnd2 ≤ rnd1 → ∃ u o,
    State.acts (executeActs dec [(st1, rnd1)]) (s.freshWith vals keys) = .next u ∧ u.err = .ok ∧
    u.result (Instr.ofStep st2 dec rnd2) = some o ∧ s.freshResult (Instr.ofStep st2 dec rnd2) vals keys = some o

/-- Properties 5 and 6 together: `OUT` of a successful `EXECUTE` is a function of the buffers, the direction, the round and
the step alone, whatever words were written to `CMD` since the last `HRESET`, and whatever the engine was before it
(R148). -/
def State.OutIsAFunctionOfTheInputs (s : State) : Prop :=
  ∀ (s' u : State) (vals keys : List Byte) (ws : List CmdWord) (st : StepId) (dec : Bool) (rnd : Nat) (o : OutBuf),
    s'.cfg = s.cfg → rnd < 32 → State.acts (ws.map HostAct.command) (s.freshWith vals keys) = .next u →
    u.result (Instr.ofStep st dec rnd) = some o → s'.freshResult (Instr.ofStep st dec rnd) vals keys = some o

/-- Property 7, packing: byte `j` of row `i` of `EXEC.OUT` is `(aj_column[i] >> (8·(3 − j mod 4))) & 0xff`, with column index
`j / 4` into the alias order of the round, which is round 15 in a full run (R148, R143, R41). -/
def State.Packing (s : State) : Prop :=
  ∀ (vals keys : List Byte) (dec : Bool) (round : Round), s.ValidInputs vals keys (round.val + 1) → ∃ t,
    step ((s.freshWith vals keys).writeCmd (encode (.out dec (round.val + 1)))) = .next t ∧ t.err = .ok ∧
    (t.out.rows, t.out.cols, t.out.ew) = (vals.length / 16, 16, 8) ∧
    ∀ i, i < vals.length / 16 → ∃ b, t.readNamed round i = .ok b ∧ ∀ j, j < 16 →
      t.out.element (16 * i + j) =
        some ((([b.w1, b.w2, b.w3, b.w4].getD (j / 4) 0#32 >>> (8 * (3 - j % 4))) &&& 0xff#32).toNat)

/-- The seven properties of an engine, and what 5 and 6 say together (R148). -/
structure State.SevenProperties (s : State) : Prop where
  decryptInvertsEncrypt : s.DecryptInvertsEncrypt
  batchEquivalence : s.BatchEquivalence
  keyBroadcast : s.KeyBroadcast
  gDeterminism : GDeterminism
  prefixEquivalence : s.PrefixEquivalence
  rewindSafety : s.RewindSafety
  outIsAFunctionOfTheInputs : s.OutIsAFunctionOfTheInputs
  packing : s.Packing

end Sys2Proof.Machine
end

