-- ==== Sys2Proof/Certificates/Slice0/Obligations.lean ====
section
/-! DEFINITION. The statements about the engine. Each docstring names the rule of spec/ that is formalised; the words
"coherent", "accepts" and "sound" stand for `State.Coherent` (R197), `State.Accepts` (R131, R132) and `State.Wf` (R12,
R18) of Safety.lean. A byte that the host has not written is a free value (93 U8, log 3): what is said of the bytes in
the buffers holds for every value of it. -/

open Sys2Proof Sys2Proof.Machine

/-! ### Words -/

/-- Decoding the word of a well-formed command gives the command back, with every operand (R61, R62, R64). -/
def Obligations.DecodeEncodeRoundTrip : Prop :=
  ∀ i : Instr, i.wellFormed = true → decode (encode i) = .instr i

/-- A word that decodes to a command is the only word of it, and the command is well-formed (R61, R62). -/
def Obligations.EncodeIsTheOnlyWord : Prop :=
  ∀ (w : CmdWord) (i : Instr), decode w = .instr i → encode i = w ∧ i.wellFormed = true

/-- Decoding, on the fields of the word as numbers: the reserved words, `RESET`, and `EXECUTE` with its operands; the
range of `round_1based` is no part of it (R61, R62, R69). -/
def Obligations.DecodeReadsTheFields : Prop :=
  ∀ w : CmdWord,
    (w.toNat % 4 ≠ 0 ∨ 2 ≤ w.toNat / 4096 → ∃ why, decode w = .reserved why) ∧
    (w.toNat / 4096 = 0 → w.toNat ≠ 0 → ∃ why, decode w = .reserved why) ∧
    (w.toNat = 0 → decode w = .instr .reset) ∧
    (w.toNat % 4 = 0 → w.toNat / 4096 = 1 → ∀ dec, (dec = true ↔ w.toNat / 2048 % 2 = 1) →
      (∀ st : StepId, w.toNat / 4 % 16 = st.id →
        decode w = .instr (Instr.ofStep st dec (w.toNat / 64 % 32))) ∧
      (8 ≤ w.toNat / 4 % 16 → decode w = .unknownStep dec (w.toNat / 64 % 32) (w.toNat / 4 % 16)))

/-- The match and mask columns of the opcode map select exactly the words of their row (R62, section 3). -/
def Obligations.MatchAndMaskSelectTheRow : Prop :=
  ∀ w : CmdWord,
    (w &&& maskBits .reset = matchBits .reset ↔ decode w = .instr .reset) ∧
    ∀ st : StepId, matchBits (Instr.ofStep st false 0) = 0x1000#16 ||| BitVec.ofNat 16 (4 * st.id) ∧
      maskBits (Instr.ofStep st false 0) = 0xF03F#16 ∧
      (w &&& maskBits (Instr.ofStep st false 0) = matchBits (Instr.ofStep st false 0) ↔
        ∃ dec rnd, decode w = .instr (Instr.ofStep st dec rnd))

/-- The worked encodings of the spec and one word of every other command (30_encoding.md, section 3). -/
def Obligations.SpecWordsDecode : Prop :=
  decode 0x0000#16 = .instr .reset ∧ decode 0x18C0#16 = .instr (.rkey true 3) ∧
    decode 0x1084#16 = .instr (.right false 2) ∧ decode 0x1048#16 = .instr (.ark false 1) ∧
    decode 0x104C#16 = .instr (.gda false 1) ∧ decode 0x1050#16 = .instr (.gc false 1) ∧
    decode 0x1054#16 = .instr (.gdb false 1) ∧ decode 0x1058#16 = .instr (.f false 1) ∧
    decode 0x141C#16 = .instr (.out false 16) ∧ decode 0x1C1C#16 = .instr (.out true 16)

/-- The quantities a command derives from its fields and lengths: `df` is 15 or 0, the round is one less than
`round_1based` where that is 1 to 16, the key round is `|df − r|`, which is `r` or `15 − r`, and the counts are the
lengths divided by 16 (R65 to R68). -/
def Obligations.OperandsOfACommand : Prop :=
  (∀ dec : Bool, (Direction.ofDec dec).df = if dec then 15 else 0) ∧
  (∀ (rnd : Nat) (r : Round), roundOf? rnd = some r ↔ 1 ≤ rnd ∧ rnd ≤ 16 ∧ r.val = rnd - 1) ∧
  (∀ (d : Direction) (r : Round), ((ksRound d r).val : Int) = |(d.df : Int) - (r.val : Int)|) ∧
  (∀ r : Round, (ksRound .encrypt r).val = r.val ∧ (ksRound .decrypt r).val = 15 - r.val) ∧
  (∀ n : Nat, itemCount n = n / 16)

/-- The bit fields of the control registers: the tags in 5-bit two's complement, of which sixteen patterns never occur,
the direction in 2 bits, and the error code in 3 (R15, R16, R19, R24). -/
def Obligations.ControlFieldEncodings : Prop :=
  tagField none = 0b11111#5 ∧ (∀ r : Round, tagField (some r) = BitVec.ofNat 5 r.val) ∧
  (∀ t : Option Round, (tagField t).toInt = tagVal t ∧ ((tagField t).toNat < 16 ∨ tagField t = 0b11111#5)) ∧
  dirField none = 0b00#2 ∧ dirField (some .encrypt) = 0b01#2 ∧ dirField (some .decrypt) = 0b10#2 ∧
  (∀ d, dirField d ≠ 0b11#2) ∧
  ErrCode.ok.code = 0#3 ∧ ErrCode.inputShape.code = 1#3 ∧ ErrCode.directionSwitch.code = 2#3 ∧
  ErrCode.allocFail.code = 3#3 ∧ ∀ e : ErrCode, e.code.toNat < 4

/-! ### A step -/

/-- A step is the command whose word stands in `CMD`: the decoded command as `exec` runs it; for an unknown step
identifier the direction check and then an `InputShape`; for a reserved word an `InputShape` that leaves `DIR` alone
(R51, R69). That a reserved word runs at all, and is not refused, is the model's choice (log 7). -/
def Obligations.StepRunsTheDecodedCommand : Prop :=
  ∀ s : State,
    (∀ i, decode s.inp.cmd = .instr i → step s = exec i s) ∧
    (∀ dec rnd n, decode s.inp.cmd = .unknownStep dec rnd n →
      ((s.dir = none ∨ s.dir = some (Direction.ofDec dec)) →
        step s = .next (State.raise .inputShape { s with dir := some (Direction.ofDec dec) })) ∧
      (s.dir = some (Direction.ofDec (!dec)) → step s = .next (s.raise .directionSwitch))) ∧
    (∀ why, decode s.inp.cmd = .reserved why → step s = .next (s.raise .inputShape))

/-- Writing the word of a well-formed command to `CMD` and stepping runs that command, in every state (R23, R51). -/
def Obligations.WrittenCommandRuns : Prop :=
  ∀ (s : State) (i : Instr), i.wellFormed = true →
    step (s.writeCmd (encode i)) = exec i (s.writeCmd (encode i)) ∧
    s.withFetchWord 16 (encode i).toNat = s.writeCmd (encode i)

/-- No command is refused, in any state: a command runs to completion (R8, R51). For the reserved words and for buffers
changed under a live prefix this is the model's choice, since the spec lets a model refuse both (R69, 93 U4, log 7; R197,
93 U1, log 8). -/
def Obligations.NoCommandIsRefused : Prop :=
  ∀ (s : State) (r : Refusal), step s ≠ .refused r

/-! ### Errors -/

/-- The direction check comes first: another direction than the frozen one ends in `DirectionSwitch`, whatever the
operands and the lengths are (R131, R163, R168). -/
def Obligations.DirectionSwitchIsRefused : Prop :=
  ∀ (s : State) (st : StepId) (dec : Bool) (rnd : Nat), s.dir = some (Direction.ofDec (!dec)) →
    exec (Instr.ofStep st dec rnd) s =
      .next { s.hreset s.inp with dir := s.dir, err := .directionSwitch }

/-- A failed shape check ends in `InputShape`, with the direction frozen, before the capacity check (R132, R161, R167,
R168). -/
def Obligations.BadShapeIsRefused : Prop :=
  ∀ (s : State) (st : StepId) (dec : Bool) (rnd : Nat),
    (s.dir = none ∨ s.dir = some (Direction.ofDec dec)) →
    (s.inp.vlen % 16 ≠ 0 ∨ s.inp.klen % 16 ≠ 0 ∨
      (s.inp.klen / 16 ≠ 1 ∧ s.inp.klen / 16 ≠ s.inp.vlen / 16) ∨ rnd < 1 ∨ 16 < rnd) →
    exec (Instr.ofStep st dec rnd) s =
      .next { s.hreset s.inp with dir := some (Direction.ofDec dec), err := .inputShape }

/-- More blocks than the columns hold end in `AllocFail`, with the direction frozen and nothing loaded (R132, R165,
R168). -/
def Obligations.TooManyBlocksAreRefused : Prop :=
  ∀ (s : State) (st : StepId) (dec : Bool) (rnd : Nat),
    (s.dir = none ∨ s.dir = some (Direction.ofDec dec)) →
    s.inp.vlen % 16 = 0 → s.inp.klen % 16 = 0 →
    (s.inp.klen / 16 = 1 ∨ s.inp.klen / 16 = s.inp.vlen / 16) → 1 ≤ rnd → rnd ≤ 16 →
    s.cfg.nmax < s.inp.vlen / 16 →
    exec (Instr.ofStep st dec rnd) s =
      .next { s.hreset s.inp with dir := some (Direction.ofDec dec), err := .allocFail }

/-- `ERR` after an `EXECUTE` is the first failed check in the order direction, shape, capacity, and 0 exactly when none
failed (R24, R167). -/
def Obligations.ErrIsTheFirstFailedCheck : Prop :=
  ∀ (s t : State) (st : StepId) (dec : Bool) (rnd : Nat), exec (Instr.ofStep st dec rnd) s = .next t →
    t.err =
      if s.dir = some (Direction.ofDec (!dec)) then .directionSwitch
      else if s.inp.vlen % 16 ≠ 0 ∨ s.inp.klen % 16 ≠ 0 ∨
        (s.inp.klen / 16 ≠ 1 ∧ s.inp.klen / 16 ≠ s.inp.vlen / 16) ∨ rnd < 1 ∨ 16 < rnd then .inputShape
      else if s.cfg.nmax < s.inp.vlen / 16 then .allocFail
      else .ok

/-- After any error the state is that of a fresh engine of the same direction with the same inputs, but for the code; a
direction that was frozen stays (R168, R171). -/
def Obligations.ErrorLeavesAFreshEngine : Prop :=
  ∀ s t : State, step s = .next t → t.err ≠ .ok →
    t = { s.hreset s.inp with dir := t.dir, err := t.err } ∧ (s.dir.isSome = true → t.dir = s.dir)

/-! ### Resets -/

/-- `RESET`, the word `0x0000`, completes in every state: it drops the columns, the subkeys, the counts, the flags and
the tags, clears `ERR`, changes nothing else, and a second one changes nothing (R144, R186). -/
def Obligations.ResetDropsThePrefix : Prop :=
  encode .reset = 0x0000#16 ∧ (∀ w : CmdWord, w &&& 0xFFFF#16 = 0x0000#16 → decode w = .instr .reset) ∧
  ∀ s : State, ∃ t, exec .reset s = .next t ∧
    t.v1 = [] ∧ t.v2 = [] ∧ t.v3 = [] ∧ t.v4 = [] ∧ t.k1 = [] ∧ t.k2 = [] ∧ t.k3 = [] ∧ t.k4 = [] ∧
    t.ks0 = [] ∧ t.ks1 = [] ∧ t.nv = none ∧ t.nk = none ∧ t.blkLoaded = false ∧ t.keyLoaded = false ∧
    t.keyRound = none ∧ t.blockRound = none ∧ t.err = .ok ∧
    t.dir = s.dir ∧ t.out = s.out ∧ t.inp = s.inp ∧ t.cfg = s.cfg ∧
    exec .reset t = .next t

/-- `HRESET` in any state, and the state after reset: nothing loaded, both tags −1, no direction, no error, an empty
`OUT` (R185, R187). The inputs are whatever the host leaves there; those of `State.reset` are the model's (log 2). -/
def Obligations.HresetIsAFreshEngine : Prop :=
  (∀ (s : State) (after : Inputs),
    (s.hreset after).Fresh ∧ (s.hreset after).dir = none ∧ (s.hreset after).err = .ok ∧
    (s.hreset after).out = { rows := 0, cols := 0, ew := 0, elems := .none } ∧
    (s.hreset after).inp = after ∧ (s.hreset after).cfg = s.cfg ∧
    (s.hreset after).blkLoaded = false ∧ (s.hreset after).keyLoaded = false ∧
    tagVal (s.hreset after).keyRound = -1 ∧ tagVal (s.hreset after).blockRound = -1) ∧
  State.reset = State.reset.hreset State.reset.inp

/-- The state after reset is sound and coherent (R18, R187). -/
def Obligations.ResetIsSound : Prop :=
  State.reset.Wf ∧ State.reset.Coherent

/-! ### The constant store -/

/-- The G-function as the source writes it, and its worked example (R82, R86). -/
def Obligations.GFunctionOfTheSource : Prop :=
  (∀ x : Word, gFun x =
    ss0 ((x &&& 0xff#32).setWidth 8) ^^^ ss1 (((x >>> 8) &&& 0xff#32).setWidth 8) ^^^
      ss2 (((x >>> 16) &&& 0xff#32).setWidth 8) ^^^ ss3 (((x >>> 24) &&& 0xff#32).setWidth 8)) ∧
  gFun 0x00000000#32 = 0xB829B829#32

/-- The S-box tables are built from the two byte tables with the four masks (R83). -/
def Obligations.TablesFromTheByteTables : Prop :=
  ∀ b : Byte,
    ss0 b = be32 (s1 b &&& 0x3F#8) (s1 b &&& 0xCF#8) (s1 b &&& 0xF3#8) (s1 b &&& 0xFC#8) ∧
    ss1 b = be32 (s2 b &&& 0xFC#8) (s2 b &&& 0x3F#8) (s2 b &&& 0xCF#8) (s2 b &&& 0xF3#8) ∧
    ss2 b = be32 (s1 b &&& 0xF3#8) (s1 b &&& 0xFC#8) (s1 b &&& 0x3F#8) (s1 b &&& 0xCF#8) ∧
    ss3 b = be32 (s2 b &&& 0xCF#8) (s2 b &&& 0xF3#8) (s2 b &&& 0xFC#8) (s2 b &&& 0x3F#8)

/-- The relations among the tables: `SS2` and `SS3` are rotations by 16 bits of `SS0` and `SS1`; `SS1` is no
entry-by-entry rotation of `SS0`, but has the same words rotated right by 8 bits, at other indices (R84). -/
def Obligations.TableRotations : Prop :=
  (∀ b : Byte, ss2 b = (ss0 b).rotateLeft 16 ∧ ss3 b = (ss1 b).rotateLeft 16) ∧
  (∀ n : Nat, ∃ b : Byte, ss1 b ≠ (ss0 b).rotateLeft n) ∧
  (∀ b : Byte, ∃ c : Byte, ss1 b = (ss0 c).rotateRight 8) ∧
  (∀ c : Byte, ∃ b : Byte, ss1 b = (ss0 c).rotateRight 8)

/-- The byte tables are permutations of the bytes, and the closed form over GF(2^8) gives them (R85, R88). -/
def Obligations.ByteTablesInClosedForm : Prop :=
  (∀ b : Byte, s1 b = s1Closed b ∧ s2 b = s2Closed b) ∧ Function.Bijective s1 ∧ Function.Bijective s2

/-- Round constant `r` is `KC[0]` rotated left by `r` bits (R81). -/
def Obligations.RoundConstantsRotate : Prop :=
  kc 0 = 0x9E3779B9#32 ∧
  ∀ r : Round, 1 ≤ r.val → kc r = (kc 0 <<< r.val) ||| (kc 0 >>> (32 - r.val))

/-! ### Byte order and loaders -/

/-- Words, bytes and packed outputs as numbers: big-endian input words, their bytes from the most significant on, and
`hi · 2^32 + lo` (R40, R42; 00_scope.md, section 5). -/
def Obligations.ByteOrder : Prop :=
  (∀ b0 b1 b2 b3 : Byte,
    (be32 b0 b1 b2 b3).toNat = b0.toNat * 2 ^ 24 + b1.toNat * 2 ^ 16 + b2.toNat * 2 ^ 8 + b3.toNat) ∧
  (∀ x : Word, be32 (byteOf 0 x) (byteOf 1 x) (byteOf 2 x) (byteOf 3 x) = x) ∧
  (∀ (k : Nat) (x : Word), k < 4 → (byteOf k x).toNat = x.toNat / 2 ^ (8 * (3 - k)) % 256) ∧
  (∀ hi lo : Word, (packPair hi lo).toNat = hi.toNat * 2 ^ 32 + lo.toNat)

/-- `Load(S, N)`: over a space of at least `16·N` bytes it ends well, and word `j` of item `i` is the big-endian word of
the bytes at offset `16·i + 4·(j − 1)`; a byte the host has written is the byte written (R40, R45, R90). A byte it has
not written is a free value (93 U8, log 3). -/
def Obligations.LoadReadsBigEndianWords : Prop :=
  ∀ (inp : Inputs) (sp : Space) (n : Nat), 16 * n ≤ inp.len sp →
    (∀ a b, (inp.mem sp).read a = some b → inp.byteAt sp a = b) ∧
    inp.load sp n = .ok ((List.range n).map fun i =>
      { w1 := be32 (inp.byteAt sp (16 * i)) (inp.byteAt sp (16 * i + 1)) (inp.byteAt sp (16 * i + 2))
          (inp.byteAt sp (16 * i + 3))
        w2 := be32 (inp.byteAt sp (16 * i + 4)) (inp.byteAt sp (16 * i + 5)) (inp.byteAt sp (16 * i + 6))
          (inp.byteAt sp (16 * i + 7))
        w3 := be32 (inp.byteAt sp (16 * i + 8)) (inp.byteAt sp (16 * i + 9)) (inp.byteAt sp (16 * i + 10))
          (inp.byteAt sp (16 * i + 11))
        w4 := be32 (inp.byteAt sp (16 * i + 12)) (inp.byteAt sp (16 * i + 13)) (inp.byteAt sp (16 * i + 14))
          (inp.byteAt sp (16 * i + 15)) })

/-- `Load(S, N)` depends on the first `16·N` bytes of its space alone (R44, R93). -/
def Obligations.LoadReadsOnlyItsBytes : Prop :=
  ∀ (a b : Inputs) (sp : Space) (n : Nat), 16 * n ≤ a.len sp → 16 * n ≤ b.len sp →
    (∀ x, x < 16 * n → a.byteAt sp x = b.byteAt sp x) → a.load sp n = b.load sp n

/-- The block columns are not read from the buffer while they are loaded: a command ahead of the position runs the same
whatever stands in `VALS` (R55). With other contents under a live prefix the spec calls the result undefined (R197, 93
U1); that listing L1 then runs literally is the model's choice (log 8). -/
def Obligations.LoadedBlocksAreNotReadAgain : Prop :=
  ∀ (s t : State) (m : Memory) (st : StepId) (dec : Bool) (round : Round), s.blkLoaded = true →
    tagVal s.blockRound < (round.val : Int) → exec (Instr.ofStep st dec (round.val + 1)) s = .next t →
    exec (Instr.ofStep st dec (round.val + 1)) { s with inp := { s.inp with vals := m } } =
      .next { t with inp := { t.inp with vals := m } }

/-! ### The key schedule -/

/-- The rotation before the subkeys of a round: none for round 0; the pair `(K1, K2)` right by 8 in odd rounds and the
pair `(K3, K4)` left by 8 in even rounds, as the shifts of the words and as rotations of the 64-bit pairs; the other
pair stays (R97, R98, R99). -/
def Obligations.KeyRotations : Prop :=
  (∀ k : Quad, rotateKey 0 k = k) ∧
  (∀ (r : Round) (k : Quad), r.val % 2 = 1 →
    rotateKey r k = { k with w1 := (k.w1 >>> 8) ^^^ (k.w2 <<< 24), w2 := (k.w2 >>> 8) ^^^ (k.w1 <<< 24) } ∧
    packPair (rotateKey r k).w1 (rotateKey r k).w2 = (packPair k.w1 k.w2).rotateRight 8 ∧
    (k.w1 >>> 8) &&& (k.w2 <<< 24) = 0#32 ∧ (k.w2 >>> 8) &&& (k.w1 <<< 24) = 0#32) ∧
  (∀ (r : Round) (k : Quad), r.val % 2 = 0 → r.val ≠ 0 →
    rotateKey r k = { k with w3 := (k.w3 <<< 8) ^^^ (k.w4 >>> 24), w4 := (k.w4 <<< 8) ^^^ (k.w3 >>> 24) } ∧
    packPair (rotateKey r k).w3 (rotateKey r k).w4 = (packPair k.w3 k.w4).rotateLeft 8)

/-- One key step: every key is rotated, its two subkeys are `G(K1 + K3 − KC[r])` and `G(K2 − K4 + KC[r])` of the rotated
words, the tag is `r`, and nothing else changes (R99 to R102). -/
def Obligations.KeyStepDerivesTheSubkeys : Prop :=
  ∀ (s t : State) (r : Round), s.keyStep r = .ok t →
    t = { s with k1 := t.k1, k2 := t.k2, k3 := t.k3, k4 := t.k4, ks0 := t.ks0, ks1 := t.ks1, keyRound := some r } ∧
    ∃ n, s.nk = some n ∧ ∀ i, i < n → ∃ k q : Quad,
      s.readKey i = .ok k ∧ t.readKey i = .ok q ∧ q = rotateKey r k ∧
      t.ks0[i]? = some (some (gFun (q.w1 + q.w3 - kc r))) ∧
      t.ks1[i]? = some (some (gFun (q.w2 - q.w4 + kc r))) ∧
      q.w2 - q.w4 + kc r = q.w2 + kc r - q.w4

/-- `KeyAdvanceTo`, in every state: whatever round the key schedule stands at, it ends at the round asked for, and it
writes nothing but the key part (R95, R96). -/
def Obligations.KeyScheduleWritesTheKeyPart : Prop :=
  ∀ (s t : State) (kr : Round), s.keyAdvanceTo kr = .ok t →
    t.keyRound = some kr ∧
    t = { s with k1 := t.k1, k2 := t.k2, k3 := t.k3, k4 := t.k4, ks0 := t.ks0, ks1 := t.ks1, nk := t.nk,
                 keyLoaded := t.keyLoaded, keyRound := t.keyRound }

/-! ### The round -/

/-- Steps 1 to 9 of a round for one block, from the registers they read: the columns under the round's names and the
subkeys of the block's key index (R112 to R120). -/
def Obligations.RoundStepsFollowTheList : Prop :=
  ∀ (s : State) (r : Round) (i : Nat) (a : Quad) (x : Temps), s.blockSteps r i = .ok (a, x) →
    ∃ nv nk k0 k1, s.nv = some nv ∧ s.nk = some nk ∧
      s.ks0[keyIndex nk nv i]? = some (some k0) ∧ s.ks1[keyIndex nk nv i]? = some (some k1) ∧
      (if r.val % 2 = 0 then s.v3[i]? else s.v1[i]?) = some a.w3 ∧
      (if r.val % 2 = 0 then s.v4[i]? else s.v2[i]?) = some a.w4 ∧
      x.x0 = a.w3 ^^^ k0 ∧ x.x1 = a.w4 ^^^ k1 ∧ x.x2 = x.x1 ^^^ x.x0 ∧ x.x3 = gFun x.x2 ∧ x.x4 = x.x3 + x.x0 ∧
      x.x5 = gFun x.x4 ∧ x.x6 = x.x5 + x.x3 ∧ x.x7 = gFun x.x6 ∧ x.x8 = x.x5 + x.x7

/-- A full round of a sound state: in every block `a1` and `a2` take the F-function of the subkeys and `a3`, `a4`, which
stay; the position is the round, and nothing else changes (R121, R122, R126). -/
def Obligations.RoundFullUpdatesTwoColumns : Prop :=
  ∀ (s t : State) (r : Round), s.Wf → s.roundFull r = .ok t →
    t = { s with v1 := t.v1, v2 := t.v2, v3 := t.v3, v4 := t.v4, blockRound := some r } ∧
    (if r.val % 2 = 0 then t.v3 = s.v3 ∧ t.v4 = s.v4 else t.v1 = s.v1 ∧ t.v2 = s.v2) ∧
    ∃ nv, s.nv = some nv ∧ ∀ i, i < nv → ∃ a b k, s.Sees r i a k ∧ t.readNamed r i = .ok b ∧
      b.w1 = a.w1 ^^^ (gFun (gFun ((a.w3 ^^^ k.1) ^^^ (a.w4 ^^^ k.2)) + (a.w3 ^^^ k.1)) +
        gFun (gFun (gFun ((a.w3 ^^^ k.1) ^^^ (a.w4 ^^^ k.2)) + (a.w3 ^^^ k.1)) +
          gFun ((a.w3 ^^^ k.1) ^^^ (a.w4 ^^^ k.2)))) ∧
      b.w2 = a.w2 ^^^ gFun (gFun (gFun ((a.w3 ^^^ k.1) ^^^ (a.w4 ^^^ k.2)) + (a.w3 ^^^ k.1)) +
        gFun ((a.w3 ^^^ k.1) ^^^ (a.w4 ^^^ k.2))) ∧
      b.w3 = a.w3 ∧ b.w4 = a.w4

/-- A round done twice with the same subkeys gives the columns back (R127). -/
def Obligations.RoundUndoesItself : Prop :=
  ∀ (s t u : State) (r : Round), s.Wf → s.roundFull r = .ok t → t.roundFull r = .ok u →
    u = { s with blockRound := some r }

/-- The rounds in place, under alternating names, are the textbook recursion: after round `r` the halves stand in the
columns as the parity says, and the output order after round 15 is `R_16 ∥ L_16` (R125). -/
def Obligations.RoundsAreTheFeistelRecursion : Prop :=
  ∀ (d : Direction) (key q : Quad) (r : Round),
    ((blockAfter d key (some r) q).w1, (blockAfter d key (some r) q).w2) =
      (if r.val % 2 = 0 then (feistel d key q (r.val + 1)).2 else (feistel d key q (r.val + 1)).1) ∧
    ((blockAfter d key (some r) q).w3, (blockAfter d key (some r) q).w4) =
      (if r.val % 2 = 0 then (feistel d key q (r.val + 1)).1 else (feistel d key q (r.val + 1)).2) ∧
    (blockAfter d key (some 15) q).renamed 15 =
      { w1 := (feistel d key q 16).2.1, w2 := (feistel d key q 16).2.2
        w3 := (feistel d key q 16).1.1, w4 := (feistel d key q 16).1.2 }

/-! ### The step variants, one command at a time -/

/-- What the prefix of a command does not write: `OUT`, `ERR`, the inputs; where it stands when it ends; and that it ends
well in a coherent state (R133, R134, R135). -/
def Obligations.PrefixEndsBeforeTheRound : Prop :=
  ∀ (s : State) (dec : Bool) (round : Round), s.Coherent → s.Accepts dec (round.val + 1) →
    ∃ p, s.prefixOf dec round = .ok p ∧ p.out = s.out ∧ s.Completed dec round (before round) { p with err := .ok } ∧
      p.err = s.err

/-- `EXEC.RKEY` completes: one row per key, the subkeys of the cut point's key round; the round is not begun (R136). -/
def Obligations.RkeyCapturesTheSubkeys : Prop :=
  ∀ (s : State) (dec : Bool) (round : Round), s.Coherent → s.Accepts dec (round.val + 1) →
    ∃ p t, s.prefixOf dec round = .ok p ∧ exec (.rkey dec (round.val + 1)) s = .next t ∧
      s.Completed dec round (before round) t ∧ t.samePersistent p ∧
      (t.out.rows, t.out.cols, t.out.ew) = (s.inp.klen / 16, 1, 64) ∧ t.out.elems.count = s.inp.klen / 16 ∧
      ∀ i, i < s.inp.klen / 16 → ∃ x y, t.ks0[i]? = some (some x) ∧ t.ks1[i]? = some (some y) ∧
        t.out.element i = some (x.toNat * 2 ^ 32 + y.toNat)

/-- `EXEC.RIGHT` completes: the right half of every block before the round, `V3 ∥ V4` in even and `V1 ∥ V2` in odd rounds;
the round is not begun (R137). -/
def Obligations.RightCapturesTheRightHalf : Prop :=
  ∀ (s : State) (dec : Bool) (round : Round), s.Coherent → s.Accepts dec (round.val + 1) →
    ∃ p t, s.prefixOf dec round = .ok p ∧ exec (.right dec (round.val + 1)) s = .next t ∧
      s.Completed dec round (before round) t ∧ t.samePersistent p ∧
      (t.out.rows, t.out.cols, t.out.ew) = (s.inp.vlen / 16, 1, 64) ∧ t.out.elems.count = s.inp.vlen / 16 ∧
      ∀ i, i < s.inp.vlen / 16 → ∃ x y,
        (if round.val % 2 = 0 then t.v3[i]? else t.v1[i]?) = some x ∧
        (if round.val % 2 = 0 then t.v4[i]? else t.v2[i]?) = some y ∧
        t.out.element i = some (x.toNat * 2 ^ 32 + y.toNat)

/-- `EXEC.ARK` completes: `x0 ∥ x2` of every block; steps 10 and 11 are skipped (R138, R146). -/
def Obligations.ArkCapturesTheKeyAddition : Prop :=
  ∀ (s : State) (dec : Bool) (round : Round), s.Coherent → s.Accepts dec (round.val + 1) →
    ∃ p t, s.prefixOf dec round = .ok p ∧ exec (.ark dec (round.val + 1)) s = .next t ∧
      s.Completed dec round (before round) t ∧ t.samePersistent p ∧
      (t.out.rows, t.out.cols, t.out.ew) = (s.inp.vlen / 16, 1, 64) ∧ t.out.elems.count = s.inp.vlen / 16 ∧
      ∀ i, i < s.inp.vlen / 16 → ∃ a k, t.Sees round i a k ∧
        t.out.element i =
          some ((a.w3 ^^^ k.1).toNat * 2 ^ 32 + ((a.w3 ^^^ k.1) ^^^ (a.w4 ^^^ k.2)).toNat)

/-- `EXEC.GDA`, `EXEC.GC` and `EXEC.GDB` complete: the outputs `x3`, `x5` and `x7` of the three G-functions of every block;
steps 10 and 11 are skipped (R139, R140, R141, R146). -/
def Obligations.GCascadeCaptures : Prop :=
  ∀ (s : State) (dec : Bool) (round : Round), s.Coherent → s.Accepts dec (round.val + 1) →
    ∃ p, s.prefixOf dec round = .ok p ∧ ∃ t u v,
      exec (.gda dec (round.val + 1)) s = .next t ∧ exec (.gc dec (round.val + 1)) s = .next u ∧
      exec (.gdb dec (round.val + 1)) s = .next v ∧
      (∀ z, z = t ∨ z = u ∨ z = v → s.Completed dec round (before round) z ∧ z.samePersistent p ∧
        (z.out.rows, z.out.cols, z.out.ew) = (s.inp.vlen / 16, 1, 32) ∧ z.out.elems.count = s.inp.vlen / 16) ∧
      ∀ i, i < s.inp.vlen / 16 → ∃ a k x3 x5 x7, p.Sees round i a k ∧
        x3 = gFun ((a.w3 ^^^ k.1) ^^^ (a.w4 ^^^ k.2)) ∧ x5 = gFun (x3 + (a.w3 ^^^ k.1)) ∧ x7 = gFun (x5 + x3) ∧
        t.out.element i = some x3.toNat ∧ u.out.element i = some x5.toNat ∧ v.out.element i = some x7.toNat

/-- `EXEC.F` completes: `x8 ∥ x7` of every block, and the round is completed: `a1` and `a2` take them, `a3` and `a4` stay,
the position is the round, the key part is that of the prefix (R142, R145, R146). -/
def Obligations.FCapturesAndCompletesTheRound : Prop :=
  ∀ (s : State) (dec : Bool) (round : Round), s.Coherent → s.Accepts dec (round.val + 1) →
    ∃ p t, s.prefixOf dec round = .ok p ∧ exec (.f dec (round.val + 1)) s = .next t ∧
      s.Completed dec round (some round) t ∧ t.sameKeys p ∧
      (t.out.rows, t.out.cols, t.out.ew) = (s.inp.vlen / 16, 1, 64) ∧ t.out.elems.count = s.inp.vlen / 16 ∧
      ∀ i, i < s.inp.vlen / 16 → ∃ a b k, p.Sees round i a k ∧ t.readNamed round i = .ok b ∧
        b = { a with w1 := a.w1 ^^^ (fValue k.1 k.2 a.w3 a.w4).1, w2 := a.w2 ^^^ (fValue k.1 k.2 a.w3 a.w4).2 } ∧
        t.out.element i =
          some ((fValue k.1 k.2 a.w3 a.w4).1.toNat * 2 ^ 32 + (fValue k.1 k.2 a.w3 a.w4).2.toNat)

/-- `EXEC.OUT` completes: the full round, then 16 bytes a block, the words `a1, a2, a3, a4` after the round, each from its
most significant byte on (R41, R143, R145). -/
def Obligations.OutCapturesTheBytes : Prop :=
  ∀ (s : State) (dec : Bool) (round : Round), s.Coherent → s.Accepts dec (round.val + 1) →
    ∃ p t, s.prefixOf dec round = .ok p ∧ exec (.out dec (round.val + 1)) s = .next t ∧
      s.Completed dec round (some round) t ∧ t.sameKeys p ∧
      (t.out.rows, t.out.cols, t.out.ew) = (s.inp.vlen / 16, 16, 8) ∧
      t.out.elems.count = 16 * (s.inp.vlen / 16) ∧
      ∀ i, i < s.inp.vlen / 16 → ∃ a b k, p.Sees round i a k ∧ t.readNamed round i = .ok b ∧
        b = { a with w1 := a.w1 ^^^ (fValue k.1 k.2 a.w3 a.w4).1, w2 := a.w2 ^^^ (fValue k.1 k.2 a.w3 a.w4).2 } ∧
        ∀ j, j < 16 → t.out.element (16 * i + j) =
          some ((([b.w1, b.w2, b.w3, b.w4].getD (j / 4) 0#32 >>> (8 * (3 - j % 4))) &&& 0xff#32).toNat)

/-! ### The driver as a whole -/

/-- Listing L1 computes the stateless function: whatever coherent state a command starts from, it completes, `OUT` is the
capture computed from the bytes in the buffers alone, and the persistent part is that of the loaded words at the
position and the key round of the cut point (R104, R145, R147, R149). -/
def Obligations.ExecuteEqualsTheStatelessRun : Prop :=
  ∀ (s : State) (st : StepId) (dec : Bool) (round : Round), s.Coherent → s.Accepts dec (round.val + 1) → ∃ blocks keys,
      s.inp.load .vals (s.inp.vlen / 16) = .ok blocks ∧ s.inp.load .keys (s.inp.klen / 16) = .ok keys ∧
      exec (Instr.ofStep st dec (round.val + 1)) s =
        .next { s.withLive (Direction.ofDec dec) blocks keys (ksRound (Direction.ofDec dec) round)
                  (positionAfter round st) with
                dir := some (Direction.ofDec dec), err := .ok
                out := statelessOut (Direction.ofDec dec) round st blocks keys }

/-- Persisted-prefix equivalence and rewind safety: after any commands on unchanged buffers, an `EXECUTE` that passes its
checks ends in the same state as on a fresh engine with the same inputs (R148 items 5 and 6). -/
def Obligations.EarlierCommandsDoNotShow : Prop :=
  ∀ (s u : State) (ws : List CmdWord) (st : StepId) (dec : Bool) (rnd : Nat), s.Coherent →
    State.acts (ws.map HostAct.command) s = .next u → u.Accepts dec rnd →
    ∃ t, exec (Instr.ofStep st dec rnd) u = .next t ∧ t.err = .ok ∧
      exec (Instr.ofStep st dec rnd) (u.hreset u.inp) = .next t

/-- A request at or behind the position runs as after a reset of the prefix, in every state (R133, R199). -/
def Obligations.RequestBehindThePositionStartsOver : Prop :=
  ∀ (s : State) (st : StepId) (dec : Bool) (round : Round), tagVal s.blockRound ≥ (round.val : Int) →
    exec (Instr.ofStep st dec (round.val + 1)) s = exec (Instr.ofStep st dec (round.val + 1)) s.engineReset

/-- Decryption undoes encryption, for any batch with one key or one key per block: the bytes that a fresh engine encrypts,
fed to a fresh engine that decrypts under the same keys, come back (R148 item 1). -/
def Obligations.DecryptUndoesEncrypt : Prop :=
  ∀ (s : State) (ps ks : List Byte), ps.length % 16 = 0 → (ks.length = 16 ∨ ks.length = ps.length) →
    ps.length / 16 ≤ s.cfg.nmax → ∃ t cs u,
      exec pseudoEncrypt (s.freshWith ps ks) = .next t ∧ t.err = .ok ∧ t.out.elems = .w8 cs ∧
      exec pseudoDecrypt (s.freshWith cs ks) = .next u ∧ u.err = .ok ∧ u.out.elems = .w8 ps

/-- A batch is its blocks one by one: each row of a capture is the one row that a fresh engine gives for that block alone
with its key, the broadcast key or the block's own (R54, R148 items 2 and 3). -/
def Obligations.BatchIsBlockByBlock : Prop :=
  ∀ (s : State) (ps ks : List Byte) (st : StepId) (dec : Bool) (rnd : Nat), ps.length % 16 = 0 →
    (ks.length = 16 ∨ ks.length = ps.length) → ps.length / 16 ≤ s.cfg.nmax → 1 ≤ rnd → rnd ≤ 16 →
    ∃ t, exec (Instr.ofStep st dec rnd) (s.freshWith ps ks) = .next t ∧ t.err = .ok ∧
      ∀ i, i < ps.length / 16 → ∀ ki, ki = keyIndex (ks.length / 16) (ps.length / 16) i → ∃ u,
        exec (Instr.ofStep st dec rnd)
          (s.freshWith ((ps.drop (16 * i)).take 16) ((ks.drop (16 * ki)).take 16)) = .next u ∧
        u.err = .ok ∧ u.out.rows = 1 ∧ u.out.cols = t.out.cols ∧ u.out.ew = t.out.ew ∧
        ∀ c, c < t.out.cols →
          t.out.element (t.out.cols * (if st = .rkey then ki else i) + c) = u.out.element c

/-! ### What every step keeps -/

/-- A sound state stays sound, whatever the command and whatever the host did to its buffers before (R12, R18). -/
def Obligations.StepKeepsSoundness : Prop :=
  ∀ s t : State, s.Wf → step s = .next t → t.Wf

/-- A coherent state stays coherent: between commands the live prefix is always that of the buffers, unless the host
changes them (R18 item 4, R197). -/
def Obligations.StepKeepsCoherence : Prop :=
  ∀ s t : State, s.Coherent → step s = .next t → t.Coherent

/-- Every state the host can bring about is sound: any sequence of writes, resets and commands from a sound state (R12,
R18). That the inputs after an `HRESET` are spaces in canonical form is the model's representation. -/
def Obligations.HostActsKeepSoundness : Prop :=
  ∀ (as : List HostAct) (s t : State),
    (∀ after, HostAct.hreset after ∈ as → after.vals.wf ∧ after.keys.wf) →
    s.Wf → State.acts as s = .next t → t.Wf

/-- Every word completes in a coherent state (R8, R169). For the reserved words, whose effect R69 gives, this is the
model's choice, since the spec lets a model refuse them (R69, 93 U4, log 7). That bytes the host has not written are free
values is log 3. -/
def Obligations.EveryWordCompletes : Prop :=
  ∀ s : State, s.Coherent → ∃ t, step s = .next t

/-- A sound state faults for one reason only: a subkey that does not exist because the host changed the key length under
a live prefix. No column is read without a value and no byte past the length (R12, R44). That the command runs at all on
changed buffers, and so can come to that fault, is the model's choice (R197, 93 U1, log 8). -/
def Obligations.FaultsAreTheHostsDoing : Prop :=
  ∀ (s : State) (e : Fault), s.Wf → step s = .fault e → e = .noSubkey ∧ ¬ s.Coherent

/-- Bytes that nothing has written are bytes like others: a step takes the same course if the host writes to an offset the
value that it reads as there, whether that was written or free (R48, 93 U8). The free value and
its stability are log 3. -/
def Obligations.UnwrittenBytesAreOrdinaryBytes : Prop :=
  ∀ (s t : State) (a : Nat), s.Wf → step s = .next t →
    step (s.writeVal a (s.inp.byteAt .vals a)) = .next (t.writeVal a (s.inp.byteAt .vals a)) ∧
    step (s.writeKey a (s.inp.byteAt .keys a)) = .next (t.writeKey a (s.inp.byteAt .keys a))

/-- No step writes the inputs or the parameters, in any state (R23, R44). -/
def Obligations.StepLeavesTheInputs : Prop :=
  ∀ s t : State, step s = .next t → t.inp = s.inp ∧ t.cfg = s.cfg

/-- A frozen direction stays, and only an `EXECUTE` freezes one, its own (R19, R131). -/
def Obligations.DirectionIsFrozen : Prop :=
  ∀ s t : State, step s = .next t →
    (s.dir.isSome = true → t.dir = s.dir) ∧
    (∀ d, s.dir = none → t.dir = some d →
      s.inp.cmd.toNat / 4096 = 1 ∧ (d = .decrypt ↔ s.inp.cmd.toNat / 2048 % 2 = 1))

/-- `OUT` after a step of a sound state: empty after an error, untouched by `RESET`, otherwise wholly a capture with the
descriptor of its step (R25, R47, R198). -/
def Obligations.OutAfterAStep : Prop :=
  ∀ s t : State, s.Wf → step s = .next t →
    (t.err ≠ .ok → t.out = { rows := 0, cols := 0, ew := 0, elems := .none }) ∧
    (t.err = .ok → (s.inp.cmd.toNat = 0 ∧ t.out = s.out) ∨
      ∃ st dec rnd nv nk, decode s.inp.cmd = .instr (Instr.ofStep st dec rnd) ∧ t.nv = some nv ∧ t.nk = some nk ∧
        (t.out.rows, t.out.cols, t.out.ew) = captureShape nv nk st ∧
        t.out.elems.width = t.out.ew ∧ t.out.elems.count = t.out.rows * t.out.cols)

/-- The position and the key round after a successful `EXECUTE`, in every state: only steps 6 and 7 advance it (R145,
R147). -/
def Obligations.PositionAfterACommand : Prop :=
  ∀ (s t : State) (st : StepId) (dec : Bool) (round : Round),
    exec (Instr.ofStep st dec (round.val + 1)) s = .next t → t.err = .ok →
    tagVal t.blockRound = (if st = .f ∨ st = .out then (round.val : Int) else (round.val : Int) - 1) ∧
    t.keyRound = some (if dec then 15 - round else round) ∧
    t.blkLoaded = true ∧ t.keyLoaded = true ∧ t.dir = some (Direction.ofDec dec)

/-! ### The properties of the source -/

/-- The seven properties that the source lists for all valid inputs hold of every engine: encryption undone, batches and
the broadcast key block by block, G, earlier calls, rewinds, packing; and `OUT` of a successful `EXECUTE` is a function of
the buffers, the direction, the round and the step (R148). -/
def Obligations.EngineHasTheSevenProperties : Prop :=
  ∀ s : State, s.cfg.legal → s.SevenProperties
end

