-- ==== Sys2Proof/Laws/Memory.lean ====
section
/-! SUPPORT. The laws of the input spaces: read after write, and that every operation keeps the canonical form. -/

namespace Sys2Proof.Machine

theorem mem_insertCell {cs : List Host.Cell} {x : Nat} {b : Byte} {c : Host.Cell}
    (h : c ∈ insertCell cs x b) : c = (x, b) ∨ c ∈ cs := by
  induction cs with
  | nil => simpa [insertCell] using h
  | cons p cs ih =>
    obtain ⟨a, v⟩ := p
    simp only [insertCell] at h
    split at h
    · simpa using h
    · split at h
      · simp only [List.mem_cons] at h ⊢
        tauto
      · simp only [List.mem_cons] at h ⊢
        rcases h with h | h
        · exact .inr (.inl h)
        · rcases ih h with h | h
          · exact .inl h
          · exact .inr (.inr h)

/-- A write keeps the offsets strictly rising. -/
theorem Memory.write_wf {m : Memory} (h : m.wf) (a : Nat) (b : Byte) : (m.write a b).wf := by
  obtain ⟨cs⟩ := m
  simp only [Memory.wf, Memory.write] at h ⊢
  induction cs with
  | nil => simp [insertCell]
  | cons p cs ih =>
    obtain ⟨x, v⟩ := p
    rw [List.pairwise_cons] at h
    simp only [insertCell]
    split
    · rw [List.pairwise_cons, List.pairwise_cons]
      refine ⟨?_, h⟩
      simp only [List.mem_cons, forall_eq_or_imp]
      exact ⟨by omega, fun c hc => by have := h.1 c hc; simp only at this ⊢; omega⟩
    · split
      · rw [List.pairwise_cons]
        exact ⟨fun c hc => by have := h.1 c hc; simp only at this ⊢; omega, h.2⟩
      · rw [List.pairwise_cons]
        refine ⟨fun c hc => ?_, ih h.2⟩
        rcases mem_insertCell hc with rfl | hc
        · simp only
          omega
        · exact h.1 c hc

theorem lookup_insertCell (cs : List Host.Cell) (x y : Nat) (b : Byte)
    (h : cs.Pairwise (fun a b => a.1 < b.1)) :
    lookupCell (insertCell cs x b) y = if x = y then some b else lookupCell cs y := by
  induction cs with
  | nil => simp [insertCell, lookupCell]
  | cons p cs ih =>
    obtain ⟨a, v⟩ := p
    rw [List.pairwise_cons] at h
    simp only [insertCell]
    split
    · simp [lookupCell]
    · split
      · subst_vars
        simp only [lookupCell]
        split <;> simp_all
      · simp only [lookupCell, ih h.2]
        split <;> split <;> simp_all

/-- Reading an offset just written gives the byte written. -/
theorem Memory.read_write_same {m : Memory} (h : m.wf) (a : Nat) (b : Byte) : (m.write a b).read a = some b := by
  simp [Memory.read, Memory.write, lookup_insertCell _ _ _ _ h]

/-- A write leaves every other offset alone. -/
theorem Memory.read_write_other {m : Memory} (h : m.wf) {a x : Nat} (b : Byte) (hx : a ≠ x) :
    (m.write a b).read x = m.read x := by
  simp [Memory.read, Memory.write, lookup_insertCell _ _ _ _ h, hx]

theorem lookup_cellsFrom (bs : List Byte) (a x : Nat) :
    lookupCell (cellsFrom a bs) x = if a ≤ x then bs[x - a]? else none := by
  induction bs generalizing a with
  | nil => simp [cellsFrom, lookupCell]
  | cons b bs ih =>
    simp only [cellsFrom, lookupCell, ih]
    by_cases h : a = x
    · simp [h]
    · by_cases h' : a ≤ x
      · have hx : x - a = (x - (a + 1)) + 1 := by omega
        rw [if_neg h, if_pos (by omega), if_pos h', hx, List.getElem?_cons_succ]
      · rw [if_neg h, if_neg (by omega), if_neg h']

/-- A space set to a list of bytes holds byte `x` of the list at offset `x`, and nothing past the list. -/
@[simp] theorem Memory.read_ofBytes (bs : List Byte) (x : Nat) : (Memory.ofBytes bs).read x = bs[x]? := by
  simp [Memory.read, Memory.ofBytes, lookup_cellsFrom]

theorem cellsFrom_ge {bs : List Byte} {a : Nat} {c : Host.Cell} (h : c ∈ cellsFrom a bs) : a ≤ c.1 := by
  induction bs generalizing a with
  | nil => simp [cellsFrom] at h
  | cons b bs ih =>
    simp only [cellsFrom, List.mem_cons] at h
    rcases h with rfl | h
    · exact Nat.le_refl _
    · have := ih h
      omega

/-- A space set to a list of bytes is in canonical form. -/
theorem Memory.ofBytes_wf (bs : List Byte) : (Memory.ofBytes bs).wf := by
  simp only [Memory.wf, Memory.ofBytes]
  generalize 0 = a
  induction bs generalizing a with
  | nil => simp [cellsFrom]
  | cons b bs ih =>
    simp only [cellsFrom, List.pairwise_cons]
    exact ⟨fun c hc => cellsFrom_ge hc, ih _⟩

/-- A byte that the host has written reads as written (R23). -/
theorem Inputs.byteAt_written {inp : Inputs} {sp : Space} {a : Nat} {b : Byte} (h : (inp.mem sp).read a = some b) :
    inp.byteAt sp a = b := by
  simp [Inputs.byteAt, h]

/-- A byte that the host has not written reads as its free value (93 U8). -/
theorem Inputs.byteAt_unwritten {inp : Inputs} {sp : Space} {a : Nat} (h : (inp.mem sp).read a = none) :
    inp.byteAt sp a = inp.unwritten sp a := by
  simp [Inputs.byteAt, h]

/-- All that the read of one byte can do (R44): it gives the byte below the length, and faults at or past it. -/
theorem Inputs.readByte_eq (inp : Inputs) (sp : Space) (a : Nat) :
    (a < inp.len sp ∧ inp.readByte sp a = .ok (inp.byteAt sp a)) ∨
      (inp.len sp ≤ a ∧ inp.readByte sp a = .error (.pastLength sp)) := by
  by_cases h : a < inp.len sp
  · exact .inl ⟨h, by rw [Inputs.readByte, if_pos h]⟩
  · exact .inr ⟨by omega, by rw [Inputs.readByte, if_neg h]⟩

/-- The spaces after reset are in canonical form. -/
theorem reset_inputs_wf : State.reset.inp.vals.wf ∧ State.reset.inp.keys.wf :=
  ⟨List.Pairwise.nil, List.Pairwise.nil⟩

end Sys2Proof.Machine
end

