-- ==== Sys2Proof/Laws/Contract.lean ====
section
/-! SUPPORT. What the terms of the seven properties of 44_driver.md R148 say, once each: the result of a command, and a
fresh engine with valid inputs. -/

namespace Sys2Proof.Machine

/-- A command has a result exactly when its step ends in a state without an error, and the result is `OUT` there. -/
theorem result_eq_some {s : State} {i : Instr} {o : OutBuf} :
    s.result i = some o ↔ ∃ t, step (s.writeCmd (encode i)) = .next t ∧ t.err = .ok ∧ t.out = o := by
  unfold State.result
  split <;> simp_all

/-- Writing `CMD` after the buffers is writing it before. -/
theorem freshWith_writeCmd (s : State) (vals keys : List Byte) (w : CmdWord) :
    (s.freshWith vals keys).writeCmd w = (s.writeCmd w).freshWith vals keys := rfl

theorem freshWith_coherent (s : State) (vals keys : List Byte) : (s.freshWith vals keys).Coherent := .inl rfl

@[simp] theorem freshWith_cfg (s : State) (vals keys : List Byte) : (s.freshWith vals keys).cfg = s.cfg := rfl

@[simp] theorem freshWith_dir (s : State) (vals keys : List Byte) : (s.freshWith vals keys).dir = none := rfl

@[simp] theorem freshWith_vlen (s : State) (vals keys : List Byte) :
    (s.freshWith vals keys).inp.vlen = vals.length := rfl

@[simp] theorem freshWith_klen (s : State) (vals keys : List Byte) :
    (s.freshWith vals keys).inp.klen = keys.length := rfl

/-- Below the lengths the buffers of a fresh engine hold the listed bytes, whatever the free values are. -/
theorem freshWith_vals_byteAt (s : State) (vals keys : List Byte) {x : Nat} (h : x < vals.length) :
    (s.freshWith vals keys).inp.byteAt .vals x = vals[x] := by
  simp [State.freshWith, State.setVals, State.setKeyBytes, Inputs.byteAt, Inputs.mem, h]

theorem freshWith_keys_byteAt (s : State) (vals keys : List Byte) {x : Nat} (h : x < keys.length) :
    (s.freshWith vals keys).inp.byteAt .keys x = keys[x] := by
  simp [State.freshWith, State.setVals, State.setKeyBytes, Inputs.byteAt, Inputs.mem, h]

/-- A fresh engine with valid inputs accepts the command, in either direction (R131, R132). -/
theorem freshWith_accepts {s : State} {vals keys : List Byte} {rnd : Nat} (h : s.ValidInputs vals keys rnd)
    (dec : Bool) : (s.freshWith vals keys).Accepts dec rnd := by
  obtain ⟨hv, hk, hn, h1, h2⟩ := h
  refine ⟨.inl rfl, h1, h2, ?_, by simpa [itemCount, blockBytes] using hn⟩
  simp only [Inputs.shapeOk, freshWith_vlen, freshWith_klen, itemCount, blockBytes]
  rcases hk with hk | hk <;> simp [hk, hv]

end Sys2Proof.Machine
end

