-- ==== Sys2Proof/Laws/Loop.lean ====
section
/-! SUPPORT. What a loop over indices can do (spec 20_memory.md R54), and computations that may fault. -/

namespace Sys2Proof.Machine

/-- A computation in two parts ends well exactly when both parts do. -/
theorem bind_eq_ok {α β : Type} {x : Except Fault α} {f : α → Except Fault β} {b : β} :
    (x >>= f) = .ok b ↔ ∃ a, x = .ok a ∧ f a = .ok b := by
  cases x with
  | error e => simp [bind, Except.bind]
  | ok a => simp [bind, Except.bind]

@[simp] theorem ok_bind {α β : Type} (a : α) (f : α → Except Fault β) :
    ((.ok a : Except Fault α) >>= f) = f a := rfl

@[simp] theorem error_bind {α β : Type} (e : Fault) (f : α → Except Fault β) :
    ((.error e : Except Fault α) >>= f) = .error e := rfl

@[simp] theorem settle_ok (s : State) : settle (.ok s) = .next s := rfl

@[simp] theorem settle_error (e : Fault) : settle (.error e) = .fault e := rfl

/-- The outcome of a command body is a next state exactly when the body ends in that state. -/
theorem settle_eq_next {x : Except Fault State} {t : State} : settle x = .next t ↔ x = .ok t := by
  cases x <;> simp

/-- A loop ends well exactly when every iteration does, and then it holds the results in index order. -/
theorem forEach_eq_ok {α β : Type} {f : α → Except Fault β} {is : List α} {xs : List β} :
    forEach f is = .ok xs ↔ List.Forall₂ (fun i x => f i = .ok x) is xs := by
  induction is generalizing xs with
  | nil => simp [forEach, eq_comm]
  | cons i is ih =>
    simp only [forEach, bind_eq_ok, ih, Except.ok.injEq, List.forall₂_cons_left_iff]
    constructor
    · rintro ⟨x, hx, ys, hys, rfl⟩
      exact ⟨x, ys, hx, hys, rfl⟩
    · rintro ⟨x, ys, hx, hys, rfl⟩
      exact ⟨x, hx, ys, hys, rfl⟩

/-- A loop over `0 .. n − 1` ends well exactly when it gives `n` results, result `i` that of iteration `i`. -/
theorem forEach_range_eq_ok {β : Type} {f : Nat → Except Fault β} {n : Nat} {xs : List β} :
    forEach f (List.range n) = .ok xs ↔
      xs.length = n ∧ ∀ i (h : i < xs.length), f i = .ok xs[i] := by
  rw [forEach_eq_ok, List.forall₂_iff_get]
  simp only [List.length_range, List.get_eq_getElem, List.getElem_range]
  constructor
  · rintro ⟨hl, h⟩
    exact ⟨hl.symm, fun i hi => h i (by omega) hi⟩
  · rintro ⟨hl, h⟩
    exact ⟨hl.symm, fun i _ hi => h i hi⟩

/-- A loop that reads the elements of a list of results in order gives that list. -/
theorem forEach_range_ok {β : Type} {f : Nat → Except Fault β} {n : Nat} {xs : List β} (hl : xs.length = n)
    (h : ∀ i (h : i < xs.length), f i = .ok xs[i]) : forEach f (List.range n) = .ok xs :=
  forEach_range_eq_ok.mpr ⟨hl, h⟩

/-- The number of results is the number of iterations. -/
theorem forEach_length {α β : Type} {f : α → Except Fault β} {is : List α} {xs : List β}
    (h : forEach f is = .ok xs) : xs.length = is.length :=
  (forEach_eq_ok.mp h).length_eq.symm

/-- A loop whose iterations all end well ends well. -/
theorem forEach_exists_ok {α β : Type} {f : α → Except Fault β} {is : List α}
    (h : ∀ i ∈ is, ∃ x, f i = .ok x) : ∃ xs, forEach f is = .ok xs := by
  induction is with
  | nil => exact ⟨[], rfl⟩
  | cons i is ih =>
    obtain ⟨x, hx⟩ := h i (by simp)
    obtain ⟨xs, hxs⟩ := ih fun j hj => h j (by simp [hj])
    exact ⟨x :: xs, by simp [forEach, hx, hxs]⟩

end Sys2Proof.Machine
end

