-- ==== Sys2Proof/Laws/State.lean ====
section
/-! SUPPORT. One lemma for each field and each named update of the state. -/

namespace Sys2Proof.Machine

/-! ### The fields after `EngineReset()` (R186). -/

@[simp] theorem State.engineReset_v1 (s : State) : (s.engineReset).v1 = [] := rfl
@[simp] theorem State.engineReset_v2 (s : State) : (s.engineReset).v2 = [] := rfl
@[simp] theorem State.engineReset_v3 (s : State) : (s.engineReset).v3 = [] := rfl
@[simp] theorem State.engineReset_v4 (s : State) : (s.engineReset).v4 = [] := rfl
@[simp] theorem State.engineReset_k1 (s : State) : (s.engineReset).k1 = [] := rfl
@[simp] theorem State.engineReset_k2 (s : State) : (s.engineReset).k2 = [] := rfl
@[simp] theorem State.engineReset_k3 (s : State) : (s.engineReset).k3 = [] := rfl
@[simp] theorem State.engineReset_k4 (s : State) : (s.engineReset).k4 = [] := rfl
@[simp] theorem State.engineReset_ks0 (s : State) : (s.engineReset).ks0 = [] := rfl
@[simp] theorem State.engineReset_ks1 (s : State) : (s.engineReset).ks1 = [] := rfl
@[simp] theorem State.engineReset_nv (s : State) : (s.engineReset).nv = none := rfl
@[simp] theorem State.engineReset_nk (s : State) : (s.engineReset).nk = none := rfl
@[simp] theorem State.engineReset_blkLoaded (s : State) : (s.engineReset).blkLoaded = false := rfl
@[simp] theorem State.engineReset_keyLoaded (s : State) : (s.engineReset).keyLoaded = false := rfl
@[simp] theorem State.engineReset_keyRound (s : State) : (s.engineReset).keyRound = none := rfl
@[simp] theorem State.engineReset_blockRound (s : State) : (s.engineReset).blockRound = none := rfl
@[simp] theorem State.engineReset_dir (s : State) : (s.engineReset).dir = s.dir := rfl
@[simp] theorem State.engineReset_err (s : State) : (s.engineReset).err = s.err := rfl
@[simp] theorem State.engineReset_out (s : State) : (s.engineReset).out = s.out := rfl
@[simp] theorem State.engineReset_inp (s : State) : (s.engineReset).inp = s.inp := rfl
@[simp] theorem State.engineReset_cfg (s : State) : (s.engineReset).cfg = s.cfg := rfl

/-! ### The fields after `raise E` (R168). -/

@[simp] theorem State.raise_v1 (e : ErrCode) (s : State) : (s.raise e).v1 = [] := rfl
@[simp] theorem State.raise_v2 (e : ErrCode) (s : State) : (s.raise e).v2 = [] := rfl
@[simp] theorem State.raise_v3 (e : ErrCode) (s : State) : (s.raise e).v3 = [] := rfl
@[simp] theorem State.raise_v4 (e : ErrCode) (s : State) : (s.raise e).v4 = [] := rfl
@[simp] theorem State.raise_k1 (e : ErrCode) (s : State) : (s.raise e).k1 = [] := rfl
@[simp] theorem State.raise_k2 (e : ErrCode) (s : State) : (s.raise e).k2 = [] := rfl
@[simp] theorem State.raise_k3 (e : ErrCode) (s : State) : (s.raise e).k3 = [] := rfl
@[simp] theorem State.raise_k4 (e : ErrCode) (s : State) : (s.raise e).k4 = [] := rfl
@[simp] theorem State.raise_ks0 (e : ErrCode) (s : State) : (s.raise e).ks0 = [] := rfl
@[simp] theorem State.raise_ks1 (e : ErrCode) (s : State) : (s.raise e).ks1 = [] := rfl
@[simp] theorem State.raise_nv (e : ErrCode) (s : State) : (s.raise e).nv = none := rfl
@[simp] theorem State.raise_nk (e : ErrCode) (s : State) : (s.raise e).nk = none := rfl
@[simp] theorem State.raise_blkLoaded (e : ErrCode) (s : State) : (s.raise e).blkLoaded = false := rfl
@[simp] theorem State.raise_keyLoaded (e : ErrCode) (s : State) : (s.raise e).keyLoaded = false := rfl
@[simp] theorem State.raise_keyRound (e : ErrCode) (s : State) : (s.raise e).keyRound = none := rfl
@[simp] theorem State.raise_blockRound (e : ErrCode) (s : State) : (s.raise e).blockRound = none := rfl
@[simp] theorem State.raise_dir (e : ErrCode) (s : State) : (s.raise e).dir = s.dir := rfl
@[simp] theorem State.raise_err (e : ErrCode) (s : State) : (s.raise e).err = e := rfl
@[simp] theorem State.raise_out (e : ErrCode) (s : State) : (s.raise e).out = OutBuf.empty := rfl
@[simp] theorem State.raise_inp (e : ErrCode) (s : State) : (s.raise e).inp = s.inp := rfl
@[simp] theorem State.raise_cfg (e : ErrCode) (s : State) : (s.raise e).cfg = s.cfg := rfl

/-! ### The fields after a capture and the normal end (R47). -/

@[simp] theorem State.capture_v1 (o : OutBuf) (s : State) : (s.capture o).v1 = s.v1 := rfl
@[simp] theorem State.capture_v2 (o : OutBuf) (s : State) : (s.capture o).v2 = s.v2 := rfl
@[simp] theorem State.capture_v3 (o : OutBuf) (s : State) : (s.capture o).v3 = s.v3 := rfl
@[simp] theorem State.capture_v4 (o : OutBuf) (s : State) : (s.capture o).v4 = s.v4 := rfl
@[simp] theorem State.capture_k1 (o : OutBuf) (s : State) : (s.capture o).k1 = s.k1 := rfl
@[simp] theorem State.capture_k2 (o : OutBuf) (s : State) : (s.capture o).k2 = s.k2 := rfl
@[simp] theorem State.capture_k3 (o : OutBuf) (s : State) : (s.capture o).k3 = s.k3 := rfl
@[simp] theorem State.capture_k4 (o : OutBuf) (s : State) : (s.capture o).k4 = s.k4 := rfl
@[simp] theorem State.capture_ks0 (o : OutBuf) (s : State) : (s.capture o).ks0 = s.ks0 := rfl
@[simp] theorem State.capture_ks1 (o : OutBuf) (s : State) : (s.capture o).ks1 = s.ks1 := rfl
@[simp] theorem State.capture_nv (o : OutBuf) (s : State) : (s.capture o).nv = s.nv := rfl
@[simp] theorem State.capture_nk (o : OutBuf) (s : State) : (s.capture o).nk = s.nk := rfl
@[simp] theorem State.capture_blkLoaded (o : OutBuf) (s : State) : (s.capture o).blkLoaded = s.blkLoaded := rfl
@[simp] theorem State.capture_keyLoaded (o : OutBuf) (s : State) : (s.capture o).keyLoaded = s.keyLoaded := rfl
@[simp] theorem State.capture_keyRound (o : OutBuf) (s : State) : (s.capture o).keyRound = s.keyRound := rfl
@[simp] theorem State.capture_blockRound (o : OutBuf) (s : State) : (s.capture o).blockRound = s.blockRound := rfl
@[simp] theorem State.capture_dir (o : OutBuf) (s : State) : (s.capture o).dir = s.dir := rfl
@[simp] theorem State.capture_err (o : OutBuf) (s : State) : (s.capture o).err = .ok := rfl
@[simp] theorem State.capture_out (o : OutBuf) (s : State) : (s.capture o).out = o := rfl
@[simp] theorem State.capture_inp (o : OutBuf) (s : State) : (s.capture o).inp = s.inp := rfl
@[simp] theorem State.capture_cfg (o : OutBuf) (s : State) : (s.capture o).cfg = s.cfg := rfl

/-! ### The fields after a write of the block columns (R10). -/

@[simp] theorem State.setBlocks_v1 (qs : List Quad) (s : State) : (s.setBlocks qs).v1 = qs.map Quad.w1 := rfl
@[simp] theorem State.setBlocks_v2 (qs : List Quad) (s : State) : (s.setBlocks qs).v2 = qs.map Quad.w2 := rfl
@[simp] theorem State.setBlocks_v3 (qs : List Quad) (s : State) : (s.setBlocks qs).v3 = qs.map Quad.w3 := rfl
@[simp] theorem State.setBlocks_v4 (qs : List Quad) (s : State) : (s.setBlocks qs).v4 = qs.map Quad.w4 := rfl
@[simp] theorem State.setBlocks_k1 (qs : List Quad) (s : State) : (s.setBlocks qs).k1 = s.k1 := rfl
@[simp] theorem State.setBlocks_k2 (qs : List Quad) (s : State) : (s.setBlocks qs).k2 = s.k2 := rfl
@[simp] theorem State.setBlocks_k3 (qs : List Quad) (s : State) : (s.setBlocks qs).k3 = s.k3 := rfl
@[simp] theorem State.setBlocks_k4 (qs : List Quad) (s : State) : (s.setBlocks qs).k4 = s.k4 := rfl
@[simp] theorem State.setBlocks_ks0 (qs : List Quad) (s : State) : (s.setBlocks qs).ks0 = s.ks0 := rfl
@[simp] theorem State.setBlocks_ks1 (qs : List Quad) (s : State) : (s.setBlocks qs).ks1 = s.ks1 := rfl
@[simp] theorem State.setBlocks_nv (qs : List Quad) (s : State) : (s.setBlocks qs).nv = s.nv := rfl
@[simp] theorem State.setBlocks_nk (qs : List Quad) (s : State) : (s.setBlocks qs).nk = s.nk := rfl
@[simp] theorem State.setBlocks_blkLoaded (qs : List Quad) (s : State) :
    (s.setBlocks qs).blkLoaded = s.blkLoaded := rfl
@[simp] theorem State.setBlocks_keyLoaded (qs : List Quad) (s : State) :
    (s.setBlocks qs).keyLoaded = s.keyLoaded := rfl
@[simp] theorem State.setBlocks_keyRound (qs : List Quad) (s : State) : (s.setBlocks qs).keyRound = s.keyRound := rfl
@[simp] theorem State.setBlocks_blockRound (qs : List Quad) (s : State) :
    (s.setBlocks qs).blockRound = s.blockRound := rfl
@[simp] theorem State.setBlocks_dir (qs : List Quad) (s : State) : (s.setBlocks qs).dir = s.dir := rfl
@[simp] theorem State.setBlocks_err (qs : List Quad) (s : State) : (s.setBlocks qs).err = s.err := rfl
@[simp] theorem State.setBlocks_out (qs : List Quad) (s : State) : (s.setBlocks qs).out = s.out := rfl
@[simp] theorem State.setBlocks_inp (qs : List Quad) (s : State) : (s.setBlocks qs).inp = s.inp := rfl
@[simp] theorem State.setBlocks_cfg (qs : List Quad) (s : State) : (s.setBlocks qs).cfg = s.cfg := rfl

/-! ### The fields after a write of the key columns (R11). -/

@[simp] theorem State.setKeys_v1 (qs : List Quad) (s : State) : (s.setKeys qs).v1 = s.v1 := rfl
@[simp] theorem State.setKeys_v2 (qs : List Quad) (s : State) : (s.setKeys qs).v2 = s.v2 := rfl
@[simp] theorem State.setKeys_v3 (qs : List Quad) (s : State) : (s.setKeys qs).v3 = s.v3 := rfl
@[simp] theorem State.setKeys_v4 (qs : List Quad) (s : State) : (s.setKeys qs).v4 = s.v4 := rfl
@[simp] theorem State.setKeys_k1 (qs : List Quad) (s : State) : (s.setKeys qs).k1 = qs.map Quad.w1 := rfl
@[simp] theorem State.setKeys_k2 (qs : List Quad) (s : State) : (s.setKeys qs).k2 = qs.map Quad.w2 := rfl
@[simp] theorem State.setKeys_k3 (qs : List Quad) (s : State) : (s.setKeys qs).k3 = qs.map Quad.w3 := rfl
@[simp] theorem State.setKeys_k4 (qs : List Quad) (s : State) : (s.setKeys qs).k4 = qs.map Quad.w4 := rfl
@[simp] theorem State.setKeys_ks0 (qs : List Quad) (s : State) : (s.setKeys qs).ks0 = s.ks0 := rfl
@[simp] theorem State.setKeys_ks1 (qs : List Quad) (s : State) : (s.setKeys qs).ks1 = s.ks1 := rfl
@[simp] theorem State.setKeys_nv (qs : List Quad) (s : State) : (s.setKeys qs).nv = s.nv := rfl
@[simp] theorem State.setKeys_nk (qs : List Quad) (s : State) : (s.setKeys qs).nk = s.nk := rfl
@[simp] theorem State.setKeys_blkLoaded (qs : List Quad) (s : State) : (s.setKeys qs).blkLoaded = s.blkLoaded := rfl
@[simp] theorem State.setKeys_keyLoaded (qs : List Quad) (s : State) : (s.setKeys qs).keyLoaded = s.keyLoaded := rfl
@[simp] theorem State.setKeys_keyRound (qs : List Quad) (s : State) : (s.setKeys qs).keyRound = s.keyRound := rfl
@[simp] theorem State.setKeys_blockRound (qs : List Quad) (s : State) :
    (s.setKeys qs).blockRound = s.blockRound := rfl
@[simp] theorem State.setKeys_dir (qs : List Quad) (s : State) : (s.setKeys qs).dir = s.dir := rfl
@[simp] theorem State.setKeys_err (qs : List Quad) (s : State) : (s.setKeys qs).err = s.err := rfl
@[simp] theorem State.setKeys_out (qs : List Quad) (s : State) : (s.setKeys qs).out = s.out := rfl
@[simp] theorem State.setKeys_inp (qs : List Quad) (s : State) : (s.setKeys qs).inp = s.inp := rfl
@[simp] theorem State.setKeys_cfg (qs : List Quad) (s : State) : (s.setKeys qs).cfg = s.cfg := rfl

/-! ### The fields after a write of the subkey registers (R102). -/

@[simp] theorem State.setSubkeys_v1 (ps : List (Word × Word)) (s : State) : (s.setSubkeys ps).v1 = s.v1 := rfl
@[simp] theorem State.setSubkeys_v2 (ps : List (Word × Word)) (s : State) : (s.setSubkeys ps).v2 = s.v2 := rfl
@[simp] theorem State.setSubkeys_v3 (ps : List (Word × Word)) (s : State) : (s.setSubkeys ps).v3 = s.v3 := rfl
@[simp] theorem State.setSubkeys_v4 (ps : List (Word × Word)) (s : State) : (s.setSubkeys ps).v4 = s.v4 := rfl
@[simp] theorem State.setSubkeys_k1 (ps : List (Word × Word)) (s : State) : (s.setSubkeys ps).k1 = s.k1 := rfl
@[simp] theorem State.setSubkeys_k2 (ps : List (Word × Word)) (s : State) : (s.setSubkeys ps).k2 = s.k2 := rfl
@[simp] theorem State.setSubkeys_k3 (ps : List (Word × Word)) (s : State) : (s.setSubkeys ps).k3 = s.k3 := rfl
@[simp] theorem State.setSubkeys_k4 (ps : List (Word × Word)) (s : State) : (s.setSubkeys ps).k4 = s.k4 := rfl
@[simp] theorem State.setSubkeys_ks0 (ps : List (Word × Word)) (s : State) :
    (s.setSubkeys ps).ks0 = ps.map fun p => some p.1 := rfl
@[simp] theorem State.setSubkeys_ks1 (ps : List (Word × Word)) (s : State) :
    (s.setSubkeys ps).ks1 = ps.map fun p => some p.2 := rfl
@[simp] theorem State.setSubkeys_nv (ps : List (Word × Word)) (s : State) : (s.setSubkeys ps).nv = s.nv := rfl
@[simp] theorem State.setSubkeys_nk (ps : List (Word × Word)) (s : State) : (s.setSubkeys ps).nk = s.nk := rfl
@[simp] theorem State.setSubkeys_blkLoaded (ps : List (Word × Word)) (s : State) :
    (s.setSubkeys ps).blkLoaded = s.blkLoaded := rfl
@[simp] theorem State.setSubkeys_keyLoaded (ps : List (Word × Word)) (s : State) :
    (s.setSubkeys ps).keyLoaded = s.keyLoaded := rfl
@[simp] theorem State.setSubkeys_keyRound (ps : List (Word × Word)) (s : State) :
    (s.setSubkeys ps).keyRound = s.keyRound := rfl
@[simp] theorem State.setSubkeys_blockRound (ps : List (Word × Word)) (s : State) :
    (s.setSubkeys ps).blockRound = s.blockRound := rfl
@[simp] theorem State.setSubkeys_dir (ps : List (Word × Word)) (s : State) : (s.setSubkeys ps).dir = s.dir := rfl
@[simp] theorem State.setSubkeys_err (ps : List (Word × Word)) (s : State) : (s.setSubkeys ps).err = s.err := rfl
@[simp] theorem State.setSubkeys_out (ps : List (Word × Word)) (s : State) : (s.setSubkeys ps).out = s.out := rfl
@[simp] theorem State.setSubkeys_inp (ps : List (Word × Word)) (s : State) : (s.setSubkeys ps).inp = s.inp := rfl
@[simp] theorem State.setSubkeys_cfg (ps : List (Word × Word)) (s : State) : (s.setSubkeys ps).cfg = s.cfg := rfl

/-! ### The fields after the allocation of the subkey registers (R92). -/

@[simp] theorem State.allocSubkeys_v1 (n : Nat) (s : State) : (s.allocSubkeys n).v1 = s.v1 := rfl
@[simp] theorem State.allocSubkeys_v2 (n : Nat) (s : State) : (s.allocSubkeys n).v2 = s.v2 := rfl
@[simp] theorem State.allocSubkeys_v3 (n : Nat) (s : State) : (s.allocSubkeys n).v3 = s.v3 := rfl
@[simp] theorem State.allocSubkeys_v4 (n : Nat) (s : State) : (s.allocSubkeys n).v4 = s.v4 := rfl
@[simp] theorem State.allocSubkeys_k1 (n : Nat) (s : State) : (s.allocSubkeys n).k1 = s.k1 := rfl
@[simp] theorem State.allocSubkeys_k2 (n : Nat) (s : State) : (s.allocSubkeys n).k2 = s.k2 := rfl
@[simp] theorem State.allocSubkeys_k3 (n : Nat) (s : State) : (s.allocSubkeys n).k3 = s.k3 := rfl
@[simp] theorem State.allocSubkeys_k4 (n : Nat) (s : State) : (s.allocSubkeys n).k4 = s.k4 := rfl
@[simp] theorem State.allocSubkeys_ks0 (n : Nat) (s : State) : (s.allocSubkeys n).ks0 = List.replicate n none := rfl
@[simp] theorem State.allocSubkeys_ks1 (n : Nat) (s : State) : (s.allocSubkeys n).ks1 = List.replicate n none := rfl
@[simp] theorem State.allocSubkeys_nv (n : Nat) (s : State) : (s.allocSubkeys n).nv = s.nv := rfl
@[simp] theorem State.allocSubkeys_nk (n : Nat) (s : State) : (s.allocSubkeys n).nk = s.nk := rfl
@[simp] theorem State.allocSubkeys_blkLoaded (n : Nat) (s : State) : (s.allocSubkeys n).blkLoaded = s.blkLoaded := rfl
@[simp] theorem State.allocSubkeys_keyLoaded (n : Nat) (s : State) : (s.allocSubkeys n).keyLoaded = s.keyLoaded := rfl
@[simp] theorem State.allocSubkeys_keyRound (n : Nat) (s : State) : (s.allocSubkeys n).keyRound = s.keyRound := rfl
@[simp] theorem State.allocSubkeys_blockRound (n : Nat) (s : State) :
    (s.allocSubkeys n).blockRound = s.blockRound := rfl
@[simp] theorem State.allocSubkeys_dir (n : Nat) (s : State) : (s.allocSubkeys n).dir = s.dir := rfl
@[simp] theorem State.allocSubkeys_err (n : Nat) (s : State) : (s.allocSubkeys n).err = s.err := rfl
@[simp] theorem State.allocSubkeys_out (n : Nat) (s : State) : (s.allocSubkeys n).out = s.out := rfl
@[simp] theorem State.allocSubkeys_inp (n : Nat) (s : State) : (s.allocSubkeys n).inp = s.inp := rfl
@[simp] theorem State.allocSubkeys_cfg (n : Nat) (s : State) : (s.allocSubkeys n).cfg = s.cfg := rfl

/-! ### The fields after `HRESET` (R185). -/

@[simp] theorem State.hreset_v1 (after : Inputs) (s : State) : (s.hreset after).v1 = [] := rfl
@[simp] theorem State.hreset_v2 (after : Inputs) (s : State) : (s.hreset after).v2 = [] := rfl
@[simp] theorem State.hreset_v3 (after : Inputs) (s : State) : (s.hreset after).v3 = [] := rfl
@[simp] theorem State.hreset_v4 (after : Inputs) (s : State) : (s.hreset after).v4 = [] := rfl
@[simp] theorem State.hreset_k1 (after : Inputs) (s : State) : (s.hreset after).k1 = [] := rfl
@[simp] theorem State.hreset_k2 (after : Inputs) (s : State) : (s.hreset after).k2 = [] := rfl
@[simp] theorem State.hreset_k3 (after : Inputs) (s : State) : (s.hreset after).k3 = [] := rfl
@[simp] theorem State.hreset_k4 (after : Inputs) (s : State) : (s.hreset after).k4 = [] := rfl
@[simp] theorem State.hreset_ks0 (after : Inputs) (s : State) : (s.hreset after).ks0 = [] := rfl
@[simp] theorem State.hreset_ks1 (after : Inputs) (s : State) : (s.hreset after).ks1 = [] := rfl
@[simp] theorem State.hreset_nv (after : Inputs) (s : State) : (s.hreset after).nv = none := rfl
@[simp] theorem State.hreset_nk (after : Inputs) (s : State) : (s.hreset after).nk = none := rfl
@[simp] theorem State.hreset_blkLoaded (after : Inputs) (s : State) : (s.hreset after).blkLoaded = false := rfl
@[simp] theorem State.hreset_keyLoaded (after : Inputs) (s : State) : (s.hreset after).keyLoaded = false := rfl
@[simp] theorem State.hreset_keyRound (after : Inputs) (s : State) : (s.hreset after).keyRound = none := rfl
@[simp] theorem State.hreset_blockRound (after : Inputs) (s : State) : (s.hreset after).blockRound = none := rfl
@[simp] theorem State.hreset_dir (after : Inputs) (s : State) : (s.hreset after).dir = none := rfl
@[simp] theorem State.hreset_err (after : Inputs) (s : State) : (s.hreset after).err = .ok := rfl
@[simp] theorem State.hreset_out (after : Inputs) (s : State) : (s.hreset after).out = OutBuf.empty := rfl
@[simp] theorem State.hreset_inp (after : Inputs) (s : State) : (s.hreset after).inp = after := rfl
@[simp] theorem State.hreset_cfg (after : Inputs) (s : State) : (s.hreset after).cfg = s.cfg := rfl

/-! ### The fields after a write of `CMD` (R23). -/

@[simp] theorem State.writeCmd_v1 (w : CmdWord) (s : State) : (s.writeCmd w).v1 = s.v1 := rfl
@[simp] theorem State.writeCmd_v2 (w : CmdWord) (s : State) : (s.writeCmd w).v2 = s.v2 := rfl
@[simp] theorem State.writeCmd_v3 (w : CmdWord) (s : State) : (s.writeCmd w).v3 = s.v3 := rfl
@[simp] theorem State.writeCmd_v4 (w : CmdWord) (s : State) : (s.writeCmd w).v4 = s.v4 := rfl
@[simp] theorem State.writeCmd_k1 (w : CmdWord) (s : State) : (s.writeCmd w).k1 = s.k1 := rfl
@[simp] theorem State.writeCmd_k2 (w : CmdWord) (s : State) : (s.writeCmd w).k2 = s.k2 := rfl
@[simp] theorem State.writeCmd_k3 (w : CmdWord) (s : State) : (s.writeCmd w).k3 = s.k3 := rfl
@[simp] theorem State.writeCmd_k4 (w : CmdWord) (s : State) : (s.writeCmd w).k4 = s.k4 := rfl
@[simp] theorem State.writeCmd_ks0 (w : CmdWord) (s : State) : (s.writeCmd w).ks0 = s.ks0 := rfl
@[simp] theorem State.writeCmd_ks1 (w : CmdWord) (s : State) : (s.writeCmd w).ks1 = s.ks1 := rfl
@[simp] theorem State.writeCmd_nv (w : CmdWord) (s : State) : (s.writeCmd w).nv = s.nv := rfl
@[simp] theorem State.writeCmd_nk (w : CmdWord) (s : State) : (s.writeCmd w).nk = s.nk := rfl
@[simp] theorem State.writeCmd_blkLoaded (w : CmdWord) (s : State) : (s.writeCmd w).blkLoaded = s.blkLoaded := rfl
@[simp] theorem State.writeCmd_keyLoaded (w : CmdWord) (s : State) : (s.writeCmd w).keyLoaded = s.keyLoaded := rfl
@[simp] theorem State.writeCmd_keyRound (w : CmdWord) (s : State) : (s.writeCmd w).keyRound = s.keyRound := rfl
@[simp] theorem State.writeCmd_blockRound (w : CmdWord) (s : State) : (s.writeCmd w).blockRound = s.blockRound := rfl
@[simp] theorem State.writeCmd_dir (w : CmdWord) (s : State) : (s.writeCmd w).dir = s.dir := rfl
@[simp] theorem State.writeCmd_err (w : CmdWord) (s : State) : (s.writeCmd w).err = s.err := rfl
@[simp] theorem State.writeCmd_out (w : CmdWord) (s : State) : (s.writeCmd w).out = s.out := rfl
@[simp] theorem State.writeCmd_inp (w : CmdWord) (s : State) : (s.writeCmd w).inp = { s.inp with cmd := w } := rfl
@[simp] theorem State.writeCmd_cfg (w : CmdWord) (s : State) : (s.writeCmd w).cfg = s.cfg := rfl

/-! ### The fields after the directive `.vals` (R70). -/

@[simp] theorem State.setVals_v1 (bs : List Byte) (s : State) : (s.setVals bs).v1 = s.v1 := rfl
@[simp] theorem State.setVals_v2 (bs : List Byte) (s : State) : (s.setVals bs).v2 = s.v2 := rfl
@[simp] theorem State.setVals_v3 (bs : List Byte) (s : State) : (s.setVals bs).v3 = s.v3 := rfl
@[simp] theorem State.setVals_v4 (bs : List Byte) (s : State) : (s.setVals bs).v4 = s.v4 := rfl
@[simp] theorem State.setVals_k1 (bs : List Byte) (s : State) : (s.setVals bs).k1 = s.k1 := rfl
@[simp] theorem State.setVals_k2 (bs : List Byte) (s : State) : (s.setVals bs).k2 = s.k2 := rfl
@[simp] theorem State.setVals_k3 (bs : List Byte) (s : State) : (s.setVals bs).k3 = s.k3 := rfl
@[simp] theorem State.setVals_k4 (bs : List Byte) (s : State) : (s.setVals bs).k4 = s.k4 := rfl
@[simp] theorem State.setVals_ks0 (bs : List Byte) (s : State) : (s.setVals bs).ks0 = s.ks0 := rfl
@[simp] theorem State.setVals_ks1 (bs : List Byte) (s : State) : (s.setVals bs).ks1 = s.ks1 := rfl
@[simp] theorem State.setVals_nv (bs : List Byte) (s : State) : (s.setVals bs).nv = s.nv := rfl
@[simp] theorem State.setVals_nk (bs : List Byte) (s : State) : (s.setVals bs).nk = s.nk := rfl
@[simp] theorem State.setVals_blkLoaded (bs : List Byte) (s : State) : (s.setVals bs).blkLoaded = s.blkLoaded := rfl
@[simp] theorem State.setVals_keyLoaded (bs : List Byte) (s : State) : (s.setVals bs).keyLoaded = s.keyLoaded := rfl
@[simp] theorem State.setVals_keyRound (bs : List Byte) (s : State) : (s.setVals bs).keyRound = s.keyRound := rfl
@[simp] theorem State.setVals_blockRound (bs : List Byte) (s : State) :
    (s.setVals bs).blockRound = s.blockRound := rfl
@[simp] theorem State.setVals_dir (bs : List Byte) (s : State) : (s.setVals bs).dir = s.dir := rfl
@[simp] theorem State.setVals_err (bs : List Byte) (s : State) : (s.setVals bs).err = s.err := rfl
@[simp] theorem State.setVals_out (bs : List Byte) (s : State) : (s.setVals bs).out = s.out := rfl
@[simp] theorem State.setVals_inp (bs : List Byte) (s : State) :
    (s.setVals bs).inp = { s.inp with vals := Memory.ofBytes bs, vlen := bs.length } := rfl
@[simp] theorem State.setVals_cfg (bs : List Byte) (s : State) : (s.setVals bs).cfg = s.cfg := rfl

/-! ### The fields after the directive `.keys` (R70). -/

@[simp] theorem State.setKeyBytes_v1 (bs : List Byte) (s : State) : (s.setKeyBytes bs).v1 = s.v1 := rfl
@[simp] theorem State.setKeyBytes_v2 (bs : List Byte) (s : State) : (s.setKeyBytes bs).v2 = s.v2 := rfl
@[simp] theorem State.setKeyBytes_v3 (bs : List Byte) (s : State) : (s.setKeyBytes bs).v3 = s.v3 := rfl
@[simp] theorem State.setKeyBytes_v4 (bs : List Byte) (s : State) : (s.setKeyBytes bs).v4 = s.v4 := rfl
@[simp] theorem State.setKeyBytes_k1 (bs : List Byte) (s : State) : (s.setKeyBytes bs).k1 = s.k1 := rfl
@[simp] theorem State.setKeyBytes_k2 (bs : List Byte) (s : State) : (s.setKeyBytes bs).k2 = s.k2 := rfl
@[simp] theorem State.setKeyBytes_k3 (bs : List Byte) (s : State) : (s.setKeyBytes bs).k3 = s.k3 := rfl
@[simp] theorem State.setKeyBytes_k4 (bs : List Byte) (s : State) : (s.setKeyBytes bs).k4 = s.k4 := rfl
@[simp] theorem State.setKeyBytes_ks0 (bs : List Byte) (s : State) : (s.setKeyBytes bs).ks0 = s.ks0 := rfl
@[simp] theorem State.setKeyBytes_ks1 (bs : List Byte) (s : State) : (s.setKeyBytes bs).ks1 = s.ks1 := rfl
@[simp] theorem State.setKeyBytes_nv (bs : List Byte) (s : State) : (s.setKeyBytes bs).nv = s.nv := rfl
@[simp] theorem State.setKeyBytes_nk (bs : List Byte) (s : State) : (s.setKeyBytes bs).nk = s.nk := rfl
@[simp] theorem State.setKeyBytes_blkLoaded (bs : List Byte) (s : State) :
    (s.setKeyBytes bs).blkLoaded = s.blkLoaded := rfl
@[simp] theorem State.setKeyBytes_keyLoaded (bs : List Byte) (s : State) :
    (s.setKeyBytes bs).keyLoaded = s.keyLoaded := rfl
@[simp] theorem State.setKeyBytes_keyRound (bs : List Byte) (s : State) :
    (s.setKeyBytes bs).keyRound = s.keyRound := rfl
@[simp] theorem State.setKeyBytes_blockRound (bs : List Byte) (s : State) :
    (s.setKeyBytes bs).blockRound = s.blockRound := rfl
@[simp] theorem State.setKeyBytes_dir (bs : List Byte) (s : State) : (s.setKeyBytes bs).dir = s.dir := rfl
@[simp] theorem State.setKeyBytes_err (bs : List Byte) (s : State) : (s.setKeyBytes bs).err = s.err := rfl
@[simp] theorem State.setKeyBytes_out (bs : List Byte) (s : State) : (s.setKeyBytes bs).out = s.out := rfl
@[simp] theorem State.setKeyBytes_inp (bs : List Byte) (s : State) :
    (s.setKeyBytes bs).inp = { s.inp with keys := Memory.ofBytes bs, klen := bs.length } := rfl
@[simp] theorem State.setKeyBytes_cfg (bs : List Byte) (s : State) : (s.setKeyBytes bs).cfg = s.cfg := rfl

/-! ### The fields after the live persistent part (R104, R147). -/

@[simp] theorem State.withLive_v1 (d : Direction) (blocks keys : List Quad) (kr : Round) (br : Option Round) (s : State) :
    (s.withLive d blocks keys kr br).v1 = ((pairUp blocks keys).map fun p => blockAfter d p.2 br p.1).map Quad.w1 := rfl
@[simp] theorem State.withLive_v2 (d : Direction) (blocks keys : List Quad) (kr : Round) (br : Option Round) (s : State) :
    (s.withLive d blocks keys kr br).v2 = ((pairUp blocks keys).map fun p => blockAfter d p.2 br p.1).map Quad.w2 := rfl
@[simp] theorem State.withLive_v3 (d : Direction) (blocks keys : List Quad) (kr : Round) (br : Option Round) (s : State) :
    (s.withLive d blocks keys kr br).v3 = ((pairUp blocks keys).map fun p => blockAfter d p.2 br p.1).map Quad.w3 := rfl
@[simp] theorem State.withLive_v4 (d : Direction) (blocks keys : List Quad) (kr : Round) (br : Option Round) (s : State) :
    (s.withLive d blocks keys kr br).v4 = ((pairUp blocks keys).map fun p => blockAfter d p.2 br p.1).map Quad.w4 := rfl
@[simp] theorem State.withLive_k1 (d : Direction) (blocks keys : List Quad) (kr : Round) (br : Option Round) (s : State) :
    (s.withLive d blocks keys kr br).k1 = (keys.map (keyState kr)).map Quad.w1 := rfl
@[simp] theorem State.withLive_k2 (d : Direction) (blocks keys : List Quad) (kr : Round) (br : Option Round) (s : State) :
    (s.withLive d blocks keys kr br).k2 = (keys.map (keyState kr)).map Quad.w2 := rfl
@[simp] theorem State.withLive_k3 (d : Direction) (blocks keys : List Quad) (kr : Round) (br : Option Round) (s : State) :
    (s.withLive d blocks keys kr br).k3 = (keys.map (keyState kr)).map Quad.w3 := rfl
@[simp] theorem State.withLive_k4 (d : Direction) (blocks keys : List Quad) (kr : Round) (br : Option Round) (s : State) :
    (s.withLive d blocks keys kr br).k4 = (keys.map (keyState kr)).map Quad.w4 := rfl
@[simp] theorem State.withLive_ks0 (d : Direction) (blocks keys : List Quad) (kr : Round) (br : Option Round) (s : State) :
    (s.withLive d blocks keys kr br).ks0 = (keys.map (subkeysOf kr)).map fun p => some p.1 := rfl
@[simp] theorem State.withLive_ks1 (d : Direction) (blocks keys : List Quad) (kr : Round) (br : Option Round) (s : State) :
    (s.withLive d blocks keys kr br).ks1 = (keys.map (subkeysOf kr)).map fun p => some p.2 := rfl
@[simp] theorem State.withLive_nv (d : Direction) (blocks keys : List Quad) (kr : Round) (br : Option Round) (s : State) :
    (s.withLive d blocks keys kr br).nv = some blocks.length := rfl
@[simp] theorem State.withLive_nk (d : Direction) (blocks keys : List Quad) (kr : Round) (br : Option Round) (s : State) :
    (s.withLive d blocks keys kr br).nk = some keys.length := rfl
@[simp] theorem State.withLive_blkLoaded (d : Direction) (blocks keys : List Quad) (kr : Round) (br : Option Round) (s : State) :
    (s.withLive d blocks keys kr br).blkLoaded = true := rfl
@[simp] theorem State.withLive_keyLoaded (d : Direction) (blocks keys : List Quad) (kr : Round) (br : Option Round) (s : State) :
    (s.withLive d blocks keys kr br).keyLoaded = true := rfl
@[simp] theorem State.withLive_keyRound (d : Direction) (blocks keys : List Quad) (kr : Round) (br : Option Round) (s : State) :
    (s.withLive d blocks keys kr br).keyRound = some kr := rfl
@[simp] theorem State.withLive_blockRound (d : Direction) (blocks keys : List Quad) (kr : Round) (br : Option Round) (s : State) :
    (s.withLive d blocks keys kr br).blockRound = br := rfl
@[simp] theorem State.withLive_dir (d : Direction) (blocks keys : List Quad) (kr : Round) (br : Option Round) (s : State) :
    (s.withLive d blocks keys kr br).dir = s.dir := rfl
@[simp] theorem State.withLive_err (d : Direction) (blocks keys : List Quad) (kr : Round) (br : Option Round) (s : State) :
    (s.withLive d blocks keys kr br).err = s.err := rfl
@[simp] theorem State.withLive_out (d : Direction) (blocks keys : List Quad) (kr : Round) (br : Option Round) (s : State) :
    (s.withLive d blocks keys kr br).out = s.out := rfl
@[simp] theorem State.withLive_inp (d : Direction) (blocks keys : List Quad) (kr : Round) (br : Option Round) (s : State) :
    (s.withLive d blocks keys kr br).inp = s.inp := rfl
@[simp] theorem State.withLive_cfg (d : Direction) (blocks keys : List Quad) (kr : Round) (br : Option Round) (s : State) :
    (s.withLive d blocks keys kr br).cfg = s.cfg := rfl

end Sys2Proof.Machine
end

