-- ==== Sys2Proof/Laws/KeySchedule.lean ====
section
/-! SUPPORT. What the key-schedule engine can do (spec 42_key_schedule.md R95 to R104). -/

namespace Sys2Proof.Machine

/-! ### The rotations of one step are rotations of 64-bit pairs (R97, R98, R104). -/

theorem getLsbD_packPair (a b : Word) (i : Nat) :
    (packPair a b).getLsbD i = if i < 32 then b.getLsbD i else decide (i < 64) && a.getLsbD (i - 32) := by
  simp only [packPair, BitVec.getLsbD_or, BitVec.getLsbD_shiftLeft, BitVec.getLsbD_setWidth]
  by_cases h : i < 32
  · simp [h, show i < 64 by omega]
  · by_cases h' : i < 64
    · simp [h, h', show i - 32 < 64 by omega, BitVec.getLsbD_of_ge b i (by omega)]
    · simp [h, h']

@[simp] theorem extract_packPair_hi (a b : Word) : (packPair a b).extractLsb' 32 32 = a := by
  apply BitVec.eq_of_getLsbD_eq
  intro i hi
  rw [BitVec.getLsbD_extractLsb', getLsbD_packPair]
  simp [hi, show 32 + i < 64 by omega]

@[simp] theorem extract_packPair_lo (a b : Word) : (packPair a b).extractLsb' 0 32 = b := by
  apply BitVec.eq_of_getLsbD_eq
  intro i hi
  rw [BitVec.getLsbD_extractLsb', getLsbD_packPair]
  simp [hi]

@[simp] theorem packPair_extract (x : W64) : packPair (x.extractLsb' 32 32) (x.extractLsb' 0 32) = x := by
  apply BitVec.eq_of_getLsbD_eq
  intro i hi
  simp only [getLsbD_packPair, BitVec.getLsbD_extractLsb']
  split
  · simp [*]
  · simp [hi, show i - 32 < 32 by omega, show 32 + (i - 32) = i by omega]

theorem packPair_inj {a b c d : Word} : packPair a b = packPair c d ↔ a = c ∧ b = d := by
  constructor
  · intro h
    have h1 := congrArg (BitVec.extractLsb' 32 32) h
    have h2 := congrArg (BitVec.extractLsb' 0 32) h
    simpa using And.intro h1 h2
  · rintro ⟨rfl, rfl⟩
    rfl

theorem rotateRight_rotateRight (x : W64) (n : Nat) (h : n + 8 ≤ 64) :
    (x.rotateRight n).rotateRight 8 = x.rotateRight (n + 8) := by
  apply BitVec.eq_of_getLsbD_eq
  intro i hi
  simp only [BitVec.getLsbD_rotateRight, Bool.cond_eq_ite, decide_eq_true_eq]
  by_cases h64 : n + 8 = 64
  · obtain rfl : n = 56 := by omega
    simp only [Nat.reduceMod, Nat.reduceAdd, Nat.reduceSub, hi, decide_true, Bool.true_and]
    split_ifs <;>
      first
        | omega
        | (congr 1; omega)
        | (simp only [show 8 + i < 64 by omega, decide_true, Bool.true_and]; congr 1; omega)
  · rw [Nat.mod_eq_of_lt (by omega : n < 64), Nat.mod_eq_of_lt (by omega : n + 8 < 64)]
    simp only [Nat.reduceMod, Nat.reduceSub, hi, decide_true, Bool.true_and]
    split_ifs <;>
      first
        | omega
        | (congr 1; omega)
        | (simp only [show 8 + i < 64 by omega, decide_true, Bool.true_and]; congr 1; omega)

theorem rotateLeft_rotateLeft (x : W64) (n : Nat) (h : n + 8 < 64) :
    (x.rotateLeft n).rotateLeft 8 = x.rotateLeft (n + 8) := by
  apply BitVec.eq_of_getLsbD_eq
  intro i hi
  simp only [BitVec.getLsbD_rotateLeft, Bool.cond_eq_ite, decide_eq_true_eq]
  rw [Nat.mod_eq_of_lt (by omega : n < 64), Nat.mod_eq_of_lt h]
  simp only [Nat.reduceMod, Nat.reduceSub, hi, decide_true, Bool.true_and]
  split_ifs <;>
    first
      | omega
      | (congr 1; omega)
      | (simp only [show i - 8 < 64 by omega, decide_true, Bool.true_and]; congr 1; omega)
      | (simp only [show 56 + i < 64 by omega, decide_true, Bool.true_and]; congr 1; omega)

/-- The odd rotation is a rotation of the 64-bit pair `K1 ∥ K2` (R97). -/
theorem rotateOdd_pair (k : Quad) :
    packPair (rotateOdd k).w1 (rotateOdd k).w2 = (packPair k.w1 k.w2).rotateRight 8 := by
  apply BitVec.eq_of_getLsbD_eq
  intro i hi
  simp only [BitVec.getLsbD_rotateRight, Bool.cond_eq_ite, decide_eq_true_eq, getLsbD_packPair, rotateOdd,
    BitVec.getLsbD_xor, BitVec.getLsbD_ushiftRight, BitVec.getLsbD_shiftLeft, Nat.reduceMod, Nat.reduceSub, hi,
    decide_true, Bool.true_and]
  by_cases h1 : i < 24
  · simp [h1, show i < 32 by omega, show i < 56 by omega, show 8 + i < 32 by omega]
  · by_cases h2 : i < 32
    · simp [h1, h2, show i < 56 by omega, show ¬ 8 + i < 32 by omega, show 8 + i < 64 by omega,
        BitVec.getLsbD_of_ge k.w2 (8 + i) (by omega), show 8 + i - 32 = i - 24 by omega]
    · by_cases h3 : i < 56
      · simp [h2, h3, show i - 32 < 24 by omega, show 8 + i < 64 by omega, show ¬ 8 + i < 32 by omega,
          show 8 + i - 32 = 8 + (i - 32) by omega]
      · simp [h2, h3, show ¬ i - 32 < 24 by omega, show i - 32 < 32 by omega, show i - 56 < 32 by omega,
          BitVec.getLsbD_of_ge k.w1 (8 + (i - 32)) (by omega), show i - 32 - 24 = i - 56 by omega]

/-- The even rotation is a rotation of the 64-bit pair `K3 ∥ K4` (R98). -/
theorem rotateEven_pair (k : Quad) :
    packPair (rotateEven k).w3 (rotateEven k).w4 = (packPair k.w3 k.w4).rotateLeft 8 := by
  apply BitVec.eq_of_getLsbD_eq
  intro i hi
  simp only [BitVec.getLsbD_rotateLeft, Bool.cond_eq_ite, decide_eq_true_eq, getLsbD_packPair, rotateEven,
    BitVec.getLsbD_xor, BitVec.getLsbD_ushiftRight, BitVec.getLsbD_shiftLeft, Nat.reduceMod, Nat.reduceSub, hi,
    decide_true, Bool.true_and]
  by_cases h1 : i < 8
  · simp [h1, show i < 32 by omega, show 56 + i < 64 by omega, show ¬ 56 + i < 32 by omega,
      show 56 + i - 32 = 24 + i by omega]
  · by_cases h2 : i < 32
    · simp [h1, h2, show i - 8 < 32 by omega, BitVec.getLsbD_of_ge k.w3 (24 + i) (by omega)]
    · by_cases h3 : i < 40
      · simp [h1, h2, show i - 32 < 8 by omega, show i - 8 < 32 by omega, show 24 + (i - 32) = i - 8 by omega]
      · simp [h1, h2, show ¬ i - 32 < 8 by omega, show i - 32 < 32 by omega, show ¬ i - 8 < 32 by omega,
          show i - 8 < 64 by omega, BitVec.getLsbD_of_ge k.w4 (24 + (i - 32)) (by omega),
          show i - 32 - 8 = i - 8 - 32 by omega]

theorem Quad.ext_pairs {a b : Quad} (h : packPair a.w1 a.w2 = packPair b.w1 b.w2)
    (h' : packPair a.w3 a.w4 = packPair b.w3 b.w4) : a = b := by
  obtain ⟨h1, h2⟩ := packPair_inj.mp h
  obtain ⟨h3, h4⟩ := packPair_inj.mp h'
  cases a
  cases b
  simp_all

theorem keyState_pair12 (k : Round) (key : Quad) :
    packPair (keyState k key).w1 (keyState k key).w2 =
      (packPair key.w1 key.w2).rotateRight (8 * ((k.val + 1) / 2)) := by
  simp [keyState]

theorem keyState_pair34 (k : Round) (key : Quad) :
    packPair (keyState k key).w3 (keyState k key).w4 = (packPair key.w3 key.w4).rotateLeft (8 * (k.val / 2)) := by
  simp [keyState]

/-- The key state of round 0 is the key as loaded (R99, R104). -/
@[simp] theorem keyState_zero (key : Quad) : keyState 0 key = key := by
  apply Quad.ext_pairs
  · rw [keyState_pair12]
    apply BitVec.eq_of_getLsbD_eq
    intro i hi
    simp [hi]
  · rw [keyState_pair34]
    apply BitVec.eq_of_getLsbD_eq
    intro i hi
    simp [hi]

/-- One rotation takes the closed form of round `r − 1` to that of round `r` (R97, R98, R104). -/
theorem rotateKey_keyState (r p : Round) (h : p.val + 1 = r.val) (key : Quad) :
    rotateKey r (keyState p key) = keyState r key := by
  have hr := r.isLt
  have hr0 : r.val ≠ 0 := by omega
  by_cases hodd : r.val % 2 = 1
  · rw [rotateKey, if_neg hr0, if_pos hodd]
    apply Quad.ext_pairs
    · rw [rotateOdd_pair, keyState_pair12, keyState_pair12, rotateRight_rotateRight _ _ (by omega)]
      congr 1
      omega
    · rw [show packPair (rotateOdd (keyState p key)).w3 (rotateOdd (keyState p key)).w4 =
        packPair (keyState p key).w3 (keyState p key).w4 from rfl, keyState_pair34, keyState_pair34]
      congr 1
      omega
  · rw [rotateKey, if_neg hr0, if_neg hodd]
    apply Quad.ext_pairs
    · rw [show packPair (rotateEven (keyState p key)).w1 (rotateEven (keyState p key)).w2 =
        packPair (keyState p key).w1 (keyState p key).w2 from rfl, keyState_pair12, keyState_pair12]
      congr 1
      omega
    · rw [rotateEven_pair, keyState_pair34, keyState_pair34, rotateLeft_rotateLeft _ _ (by omega)]
      congr 1
      omega

/-! ### Key steps over loaded key columns. -/

/-- The key columns hold the listed keys. -/
def State.HoldsKeys (s : State) (qs : List Quad) : Prop :=
  s.keyLoaded = true ∧ s.nk = some qs.length ∧
    s.k1 = qs.map Quad.w1 ∧ s.k2 = qs.map Quad.w2 ∧ s.k3 = qs.map Quad.w3 ∧ s.k4 = qs.map Quad.w4

theorem readKey_ok {s : State} {qs : List Quad} (h : s.HoldsKeys qs) (i : Nat) (hi : i < qs.length) :
    s.readKey i = .ok qs[i] := by
  obtain ⟨hl, -, h1, h2, h3, h4⟩ := h
  simp [State.readKey, hl, h1, h2, h3, h4, hi]

theorem withKeysAt_holdsKeys (kr : Round) (keys : List Quad) (s : State) :
    (s.withKeysAt kr keys).HoldsKeys (keys.map (keyState kr)) := by
  simp [State.HoldsKeys, State.withKeysAt]

/-- `KeyStep(r)` over loaded key columns: every key rotated, its subkeys derived, `KEY_ROUND <- r` (R97 to R102). -/
theorem keyStep_ok {s : State} {qs : List Quad} (h : s.HoldsKeys qs) (r : Round) :
    s.keyStep r = .ok { (s.setKeys (qs.map (rotateKey r))).setSubkeys
      ((qs.map (rotateKey r)).map (subkeyPair r)) with keyRound := some r } := by
  have hread : forEach s.readKey (List.range qs.length) = .ok qs := forEach_range_ok rfl (readKey_ok h)
  simp [State.keyStep, State.readNk, h.2.1, hread]

/-- `KeyStep(0)` over the keys as loaded. -/
theorem keyStep_zero {s : State} {keys : List Quad} (h : s.HoldsKeys keys) :
    s.keyStep 0 = .ok (s.withKeysAt 0 keys) := by
  have hk : keys.map (rotateKey 0) = keys.map (keyState 0) := by
    simp [rotateKey]
  have hs : (keys.map (keyState 0)).map (subkeyPair 0) = keys.map (subkeysOf 0) := by
    rw [List.map_map]
    rfl
  rw [keyStep_ok h, hk, hs]
  congr 1
  obtain ⟨hl, hn, -⟩ := h
  simp only [State.withKeysAt, State.setKeys, State.setSubkeys, hl, hn]

/-- `KeyStep(r)` from key round `r − 1`. -/
theorem keyStep_succ (s : State) (keys : List Quad) (p r : Round) (h : p.val + 1 = r.val) :
    (s.withKeysAt p keys).keyStep r = .ok (s.withKeysAt r keys) := by
  have hk : (keys.map (keyState p)).map (rotateKey r) = keys.map (keyState r) := by
    rw [List.map_map]
    exact List.map_congr_left fun q _ => rotateKey_keyState r p h q
  have hs : (keys.map (keyState r)).map (subkeyPair r) = keys.map (subkeysOf r) := by
    rw [List.map_map]
    rfl
  rw [keyStep_ok (withKeysAt_holdsKeys p keys s), hk, hs]
  rfl

theorem roundsAfter_self : ∀ r : Round, roundsAfter (some r) r = [] := by decide

theorem roundsAfter_none : ∀ r : Round, roundsAfter none r = 0 :: roundsAfter (some 0) r := by decide

theorem roundsAfter_some : ∀ p q r : Round, p.val + 1 = q.val → q.val ≤ r.val →
    roundsAfter (some p) r = q :: roundsAfter (some q) r := by decide

theorem keySteps_reach (s : State) (keys : List Quad) (n : Nat) : ∀ p kr : Round, p.val + n = kr.val →
    (s.withKeysAt p keys).keySteps (roundsAfter (some p) kr) = .ok (s.withKeysAt kr keys) := by
  induction n with
  | zero =>
    intro p kr h
    obtain rfl : p = kr := Fin.ext (by omega)
    rw [roundsAfter_self]
    rfl
  | succ n ih =>
    intro p kr h
    have hq : p.val + 1 < 16 := by have := kr.isLt; omega
    rw [roundsAfter_some p ⟨p.val + 1, hq⟩ kr rfl (by simp only; omega), State.keySteps,
      keyStep_succ s keys p ⟨p.val + 1, hq⟩ rfl, ok_bind]
    exact ih _ _ (by simp only; omega)

/-- The key part of the state is that of `keys`: as loaded, without subkeys, or at the key round of the tag. -/
def State.KeysReady (s : State) (keys : List Quad) : Prop :=
  (s.keyRound = none ∧ s.HoldsKeys keys) ∨ ∃ k, s = s.withKeysAt k keys

theorem keySteps_none {s : State} {keys : List Quad} (h : s.HoldsKeys keys) (kr : Round) :
    s.keySteps (roundsAfter none kr) = .ok (s.withKeysAt kr keys) := by
  rw [roundsAfter_none, State.keySteps, keyStep_zero h, ok_bind]
  exact keySteps_reach s keys kr.val 0 kr (by simp)

/-- A key load from a readable buffer holds the keys of the buffer, with no subkeys (R92). -/
theorem keyLoad_ok {s : State} {keys : List Quad} (hload : s.inp.load .keys (itemCount s.inp.klen) = .ok keys)
    (hlen : keys.length = itemCount s.inp.klen) :
    ∃ t, s.keyLoad = .ok t ∧ t.keyRound = none ∧ t.HoldsKeys keys ∧
      ∀ kr, t.withKeysAt kr keys = s.withKeysAt kr keys := by
  refine ⟨{ (s.setKeys keys).allocSubkeys (itemCount s.inp.klen) with
    nk := some (itemCount s.inp.klen), keyRound := none, keyLoaded := true }, ?_, rfl,
    ⟨rfl, congrArg some hlen.symm, rfl, rfl, rfl, rfl⟩, fun kr => rfl⟩
  rw [State.keyLoad, hload, ok_bind]

/-- `KeyAdvanceTo(kr)`, from whatever key round of the same keys: the key part is that of key round `kr`, and
nothing else changes (R95, R96, R104). -/
theorem keyAdvanceTo_ok {s : State} {keys : List Quad} (h : s.KeysReady keys)
    (hload : s.inp.load .keys (itemCount s.inp.klen) = .ok keys)
    (hlen : keys.length = itemCount s.inp.klen) (kr : Round) :
    s.keyAdvanceTo kr = .ok (s.withKeysAt kr keys) := by
  rcases h with ⟨hn, hk⟩ | ⟨k, hk⟩
  · have h1 : ¬ ((kr.val : Int) < tagVal none) := by simp only [tagVal]; omega
    simp only [State.keyAdvanceTo, hn, reduceCtorEq, if_false, h1, ok_bind]
    exact keySteps_none hk kr
  · have hkr : s.keyRound = some k := by rw [hk]; rfl
    by_cases he : k = kr
    · subst he
      rw [State.keyAdvanceTo, if_pos hkr]
      exact congrArg _ hk
    · have hne : s.keyRound ≠ some kr := by rw [hkr]; simpa using he
      rw [State.keyAdvanceTo, if_neg hne]
      by_cases hlt : (kr.val : Int) < tagVal s.keyRound
      · obtain ⟨t, ht, htr, htk, hts⟩ :=
          keyLoad_ok (s := { s with keyLoaded := false, keyRound := none }) hload hlen
        rw [if_pos hlt, State.keyRewind, ht, ok_bind]
        simp only [htr]
        rw [keySteps_none htk kr, hts]
        rfl
      · rw [if_neg hlt, ok_bind]
        have hle : k.val + (kr.val - k.val) = kr.val := by
          rw [hkr] at hlt
          simp only [tagVal] at hlt
          omega
        have hreach := keySteps_reach s keys (kr.val - k.val) k kr hle
        rw [← hk] at hreach
        simpa only [hkr] using hreach

end Sys2Proof.Machine
end

