-- ==== Sys2Proof/Laws/RoundEngine.lean ====
section
/-! SUPPORT. What the round engine can do (spec 43_round_engine.md R110 to R127). -/

namespace Sys2Proof.Machine

/-- The renaming of the columns, read the other way, gives the columns back (R111). -/
@[simp] theorem renamed_renamed (r : Round) (q : Quad) : (q.renamed r).renamed r = q := by
  simp only [Quad.renamed]
  split <;> simp [*]

/-- Steps 10 and 11 with the same temporaries undo themselves (R127). -/
theorem applyRound_applyRound (x : Temps) (a : Quad) : applyRound x (applyRound x a) = a := by
  simp [applyRound]

/-- A round leaves `a3` and `a4` alone, so a second one with the same subkeys computes the same temporaries (R127). -/
theorem roundOf_roundOf (d d' : Direction) (key : Quad) (r r' : Round) (q : Quad)
    (hk : ksRound d r = ksRound d' r') (hp : r.val % 2 = r'.val % 2) :
    roundOf d key r (roundOf d' key r' q) = q := by
  have hren : ∀ q : Quad, q.renamed r = q.renamed r' := by
    intro q
    simp only [Quad.renamed, hp]
  have hx : tempsOf d key r (roundOf d' key r' q) = tempsOf d' key r' q := by
    simp only [tempsOf, hk, hren]
    rw [show roundOf d' key r' q = (applyRound (tempsOf d' key r' q) (q.renamed r')).renamed r' from rfl,
      renamed_renamed]
    rfl
  rw [roundOf, hx, hren]
  rw [show roundOf d' key r' q = (applyRound (tempsOf d' key r' q) (q.renamed r')).renamed r' from rfl,
    hren, renamed_renamed, applyRound_applyRound, renamed_renamed]

/-! ### Reading loaded block columns. -/

/-- The block columns hold the listed blocks. -/
def State.HoldsBlocks (s : State) (qs : List Quad) : Prop :=
  s.blkLoaded = true ∧ s.nv = some qs.length ∧
    s.v1 = qs.map Quad.w1 ∧ s.v2 = qs.map Quad.w2 ∧ s.v3 = qs.map Quad.w3 ∧ s.v4 = qs.map Quad.w4

/-- The subkey registers hold the listed pairs. -/
def State.HoldsSubkeys (s : State) (ps : List (Word × Word)) : Prop :=
  s.keyLoaded = true ∧ s.keyRound.isSome = true ∧ s.nk = some ps.length ∧
    s.ks0 = (ps.map fun p => some p.1) ∧ s.ks1 = (ps.map fun p => some p.2)

theorem readBlock_ok {s : State} {qs : List Quad} (h : s.HoldsBlocks qs) (i : Nat) (hi : i < qs.length) :
    s.readBlock i = .ok qs[i] := by
  obtain ⟨hl, -, h1, h2, h3, h4⟩ := h
  simp [State.readBlock, hl, h1, h2, h3, h4, hi]

theorem readSubkeys_ok {s : State} {ps : List (Word × Word)} (h : s.HoldsSubkeys ps) (i : Nat) (hi : i < ps.length) :
    s.readSubkeys i = .ok ps[i] := by
  obtain ⟨hl, hr, -, h0, h1⟩ := h
  simp [State.readSubkeys, hl, hr, h0, h1, hi]

theorem readNamed_ok {s : State} {qs : List Quad} (h : s.HoldsBlocks qs) (r : Round) (i : Nat) (hi : i < qs.length) :
    s.readNamed r i = .ok (qs[i].renamed r) := by
  simp [State.readNamed, readBlock_ok h i hi]

/-- Every block under the names of a round, in index order. -/
theorem forEach_readNamed {s : State} {qs : List Quad} (h : s.HoldsBlocks qs) (r : Round) :
    forEach (s.readNamed r) (List.range qs.length) = .ok (qs.map fun q => q.renamed r) :=
  forEach_range_ok (by simp) fun i hi => by
    rw [readNamed_ok h r i (by simpa using hi)]
    simp

theorem forEach_readSubkeys {s : State} {ps : List (Word × Word)} (h : s.HoldsSubkeys ps) :
    forEach s.readSubkeys (List.range ps.length) = .ok ps :=
  forEach_range_ok rfl fun i hi => readSubkeys_ok h i hi

theorem withLive_holdsBlocks (d : Direction) (blocks keys : List Quad) (kr : Round) (br : Option Round) (s : State)
    (hp : (pairUp blocks keys).length = blocks.length) :
    (s.withLive d blocks keys kr br).HoldsBlocks ((pairUp blocks keys).map fun p => blockAfter d p.2 br p.1) := by
  refine ⟨rfl, ?_, rfl, rfl, rfl, rfl⟩
  simp [hp]

theorem withLive_holdsSubkeys (d : Direction) (blocks keys : List Quad) (kr : Round) (br : Option Round) (s : State) :
    (s.withLive d blocks keys kr br).HoldsSubkeys (keys.map (subkeysOf kr)) := by
  refine ⟨rfl, rfl, ?_, rfl, rfl⟩
  simp

/-! ### Blocks and their keys (R123). -/

/-- The key counts that pass the shape check: one key for all blocks, or one per block (R14). -/
def CountsOk (blocks keys : List Quad) : Prop := keys.length = 1 ∨ keys.length = blocks.length

theorem pairUp_length {blocks keys : List Quad} (h : CountsOk blocks keys) :
    (pairUp blocks keys).length = blocks.length := by
  rcases h with h | h
  · obtain ⟨k, rfl⟩ := List.length_eq_one_iff.mp h
    simp [pairUp]
  · simp only [pairUp]
    split <;> simp_all

theorem keyIndex_lt {blocks keys : List Quad} (h : CountsOk blocks keys) (i : Nat) (hi : i < blocks.length) :
    keyIndex keys.length blocks.length i < keys.length := by
  simp only [keyIndex]
  split
  · omega
  · rcases h with h | h <;> omega

/-- Pair `i` is block `i` with the key of its key index. -/
theorem pairUp_getElem {blocks keys : List Quad} (h : CountsOk blocks keys) (i : Nat) (hi : i < blocks.length) :
    (pairUp blocks keys)[i]'(by rw [pairUp_length h]; exact hi) =
      (blocks[i], keys[keyIndex keys.length blocks.length i]'(keyIndex_lt h i hi)) := by
  rcases h with h | h
  · obtain ⟨k, rfl⟩ := List.length_eq_one_iff.mp h
    simp [pairUp]
  · simp only [pairUp]
    split
    · simp
    · simp [h, keyIndex]

/-! ### The round phase over loaded columns. -/

/-- Steps 1 to 9 of round `r` for every block of the live state, at the key round of `r` (R112 to R120, R123). -/
theorem allSteps_ok (d : Direction) (blocks keys : List Quad) (r : Round) (br : Option Round) (s : State)
    (h : CountsOk blocks keys) :
    (s.withLive d blocks keys (ksRound d r) br).allSteps r =
      .ok ((pairUp blocks keys).map fun p =>
        ((blockAfter d p.2 br p.1).renamed r, tempsOf d p.2 r (blockAfter d p.2 br p.1))) := by
  have hB := withLive_holdsBlocks d blocks keys (ksRound d r) br s (pairUp_length h)
  have hS := withLive_holdsSubkeys d blocks keys (ksRound d r) br s
  have hnv : (s.withLive d blocks keys (ksRound d r) br).readNv = .ok blocks.length := rfl
  have hnk : (s.withLive d blocks keys (ksRound d r) br).readNk = .ok keys.length := rfl
  rw [State.allSteps, hnv, ok_bind]
  refine forEach_range_ok (by simp [pairUp_length h]) fun i hi => ?_
  have hi' : i < blocks.length := by simpa [pairUp_length h] using hi
  have hk := keyIndex_lt h i hi'
  rw [State.blockSteps, hnv, ok_bind, hnk, ok_bind,
    readNamed_ok hB r i (by simpa [pairUp_length h] using hi'), ok_bind,
    readSubkeys_ok hS _ (by simpa using hk), ok_bind]
  simp only [List.getElem_map, pairUp_getElem h i hi']
  rfl

theorem roundsUpTo_succ : ∀ r : Round, roundsUpTo (some r) = roundsUpTo (before r) ++ [r] := by decide

/-- The state of a block after round `r` is round `r` on its state before it (R126). -/
theorem blockAfter_some (d : Direction) (key : Quad) (r : Round) (q : Quad) :
    blockAfter d key (some r) q = roundOf d key r (blockAfter d key (before r) q) := by
  simp [blockAfter, roundsUpTo_succ]

/-- Steps 10 and 11 for every block of the live state (R121, R122). -/
theorem applyAll_ok (d : Direction) (blocks keys : List Quad) (r : Round) (s : State) :
    { (s.withLive d blocks keys (ksRound d r) (before r)).applyAll r ((pairUp blocks keys).map fun p =>
        ((blockAfter d p.2 (before r) p.1).renamed r, tempsOf d p.2 r (blockAfter d p.2 (before r) p.1))) with
      blockRound := some r } = s.withLive d blocks keys (ksRound d r) (some r) := by
  simp only [State.withLive, State.withBlocksAt, blockAfter_some, State.applyAll, List.map_map]
  rfl

/-- `RoundFull(r)` from the position before `r`, at the key round of `r` (R126, R145). -/
theorem roundFull_ok (d : Direction) (blocks keys : List Quad) (r : Round) (s : State) (h : CountsOk blocks keys) :
    (s.withLive d blocks keys (ksRound d r) (before r)).roundFull r =
      .ok (s.withLive d blocks keys (ksRound d r) (some r)) := by
  rw [State.roundFull, allSteps_ok d blocks keys r (before r) s h, ok_bind, applyAll_ok]

end Sys2Proof.Machine
end

