-- ==== Sys2Proof/Laws/Driver.lean ====
section
/-! SUPPORT. What the common part of `EXECUTE` can do (spec 44_driver.md R130 to R135). -/

namespace Sys2Proof.Machine

/-! ### Rounds of the loop. -/

theorem roundOf?_eq (rnd : Nat) (h1 : 1 ≤ rnd) (h2 : rnd ≤ 16) :
    roundOf? rnd = some ⟨rnd - 1, by omega⟩ := by
  simp [roundOf?, h1, h2]

theorem roundOf?_eq_none (rnd : Nat) : roundOf? rnd = none ↔ rnd < 1 ∨ 16 < rnd := by
  simp only [roundOf?]
  split <;> simp <;> omega

theorem roundOf?_eq_some (rnd : Nat) (r : Round) : roundOf? rnd = some r ↔ r.val + 1 = rnd := by
  have := r.isLt
  simp only [roundOf?]
  split
  · rw [Option.some.injEq, Fin.ext_iff]
    simp only
    omega
  · simp only [reduceCtorEq, false_iff]
    omega

theorem roundsBetween_none : ∀ r : Round, roundsBetween none r = roundsUpTo (before r) := by decide

theorem roundsBetween_before : ∀ r : Round, roundsBetween (before r) r = [] := by decide

theorem roundsBetween_some : ∀ p q r : Round, p.val + 1 = q.val → q.val < r.val →
    roundsBetween (some p) r = q :: roundsBetween (some q) r := by decide

theorem roundsBetween_none_cons : ∀ r : Round, r.val ≠ 0 → roundsBetween none r = 0 :: roundsBetween (some 0) r := by
  decide

theorem before_eq_some (p r : Round) (h : p.val + 1 = r.val) : before r = some p := by
  have : ∀ p r : Round, p.val + 1 = r.val → before r = some p := by decide
  exact this p r h

theorem before_zero : before 0 = none := rfl

theorem tagVal_before : ∀ r : Round, tagVal (before r) = (r.val : Int) - 1 := by decide

/-! ### The loads (R91, R92). -/

theorem load_length {inp : Inputs} {sp : Space} {n : Nat} {qs : List Quad} (h : inp.load sp n = .ok qs) :
    qs.length = n := (forEach_range_eq_ok.mp h).1

/-- The lengths pass the checks, so the counts do (R14, R132). -/
theorem counts_of_loads {inp : Inputs} {blocks keys : List Quad} (hs : inp.shapeOk = true)
    (hv : inp.load .vals (itemCount inp.vlen) = .ok blocks) (hk : inp.load .keys (itemCount inp.klen) = .ok keys) :
    CountsOk blocks keys := by
  simp only [Inputs.shapeOk, decide_eq_true_eq] at hs
  have hbl := load_length hv
  have hkl := load_length hk
  rw [CountsOk, hbl, hkl]
  exact hs.2.2

/-! ### The state between the checks and the cut point. -/

/-- The state in the middle of a command: both columns loaded from the buffers, the blocks at position `b`, the keys
ready; everything else as in `s`. -/
def State.MidCommand (s : State) (d : Direction) (blocks keys : List Quad) (b : Option Round) (t : State) : Prop :=
  t.KeysReady keys ∧ t = t.withBlocksAt d b blocks keys ∧
    ∀ kr br, t.withLive d blocks keys kr br = s.withLive d blocks keys kr br

theorem midCommand_inp {s t : State} {d : Direction} {blocks keys : List Quad} {b : Option Round}
    (h : s.MidCommand d blocks keys b t) : t.inp = s.inp := by
  have := congrArg State.inp (h.2.2 0 none)
  exact this

theorem midCommand_blockRound {s t : State} {d : Direction} {blocks keys : List Quad} {b : Option Round}
    (h : s.MidCommand d blocks keys b t) : t.blockRound = b := by
  rw [h.2.1]
  rfl

/-- The key schedule brings the keys of a state in the middle of a command to any key round. -/
theorem midCommand_keyAdvance {s t : State} {d : Direction} {blocks keys : List Quad} {b : Option Round}
    (h : s.MidCommand d blocks keys b t) (hk : s.inp.load .keys (itemCount s.inp.klen) = .ok keys) (kr : Round) :
    t.keyAdvanceTo kr = .ok (s.withLive d blocks keys kr b) := by
  have hi := midCommand_inp h
  rw [keyAdvanceTo_ok h.1 (by rw [hi]; exact hk) (by rw [hi]; exact load_length hk) kr, ← h.2.2 kr b]
  congr 1
  conv_lhs => rw [h.2.1]
  rfl

/-- The live state is a state in the middle of a command. -/
theorem withLive_midCommand (s : State) (d : Direction) (blocks keys : List Quad) (kr : Round) (b : Option Round) :
    s.MidCommand d blocks keys b (s.withLive d blocks keys kr b) :=
  ⟨.inr ⟨kr, rfl⟩, rfl, fun _ _ => rfl⟩

/-- One full round of the loop (R134, R145). -/
theorem fullRound_ok {s t : State} {d : Direction} {blocks keys : List Quad} {r : Round}
    (h : s.MidCommand d blocks keys (before r) t) (hc : CountsOk blocks keys)
    (hk : s.inp.load .keys (itemCount s.inp.klen) = .ok keys) :
    t.fullRound d r = .ok (s.withLive d blocks keys (ksRound d r) (some r)) := by
  rw [State.fullRound, midCommand_keyAdvance h hk, ok_bind, roundFull_ok d blocks keys r s hc]

/-- The full rounds before the cut point, from any position behind it (R134). -/
theorem fullRounds_some {s : State} {d : Direction} {blocks keys : List Quad} (hc : CountsOk blocks keys)
    (hk : s.inp.load .keys (itemCount s.inp.klen) = .ok keys) (n : Nat) : ∀ (p round : Round) (t : State),
    p.val + 1 + n = round.val → s.MidCommand d blocks keys (some p) t →
    ∃ t', t.fullRounds d (roundsBetween (some p) round) = .ok t' ∧ s.MidCommand d blocks keys (before round) t' := by
  induction n with
  | zero =>
    intro p round t h ht
    have hb := before_eq_some p round (by omega)
    rw [← hb, roundsBetween_before]
    exact ⟨t, rfl, by rw [hb]; exact ht⟩
  | succ n ih =>
    intro p round t h ht
    have hq : p.val + 1 < 16 := by have := round.isLt; omega
    have hb := before_eq_some p ⟨p.val + 1, hq⟩ rfl
    rw [roundsBetween_some p ⟨p.val + 1, hq⟩ round rfl (by simp only; omega), State.fullRounds,
      fullRound_ok (by rw [hb]; exact ht) hc hk, ok_bind]
    exact ih _ _ _ (by simp only; omega) (withLive_midCommand ..)

theorem fullRounds_ok {s t : State} {d : Direction} {blocks keys : List Quad} (hc : CountsOk blocks keys)
    (hk : s.inp.load .keys (itemCount s.inp.klen) = .ok keys) (b : Option Round) (round : Round)
    (hb : tagVal b < (round.val : Int)) (ht : s.MidCommand d blocks keys b t) :
    ∃ t', t.fullRounds d (roundsBetween b round) = .ok t' ∧ s.MidCommand d blocks keys (before round) t' := by
  cases b with
  | some p =>
    simp only [tagVal] at hb
    exact fullRounds_some hc hk (round.val - (p.val + 1)) p round t (by omega) ht
  | none =>
    by_cases h0 : round.val = 0
    · obtain rfl : round = 0 := Fin.ext h0
      exact ⟨t, rfl, ht⟩
    · rw [roundsBetween_none_cons round h0, State.fullRounds, fullRound_ok (by rw [before_zero]; exact ht) hc hk,
        ok_bind]
      exact fullRounds_some hc hk (round.val - 1) 0 round _ (by simp only [Fin.val_zero]; omega)
        (withLive_midCommand ..)

/-! ### The rewind test and the loads (R133). -/

/-- From a fresh state, the loads give the state in the middle of a command at position −1. -/
theorem prepare_fresh {s : State} {d : Direction} {blocks keys : List Quad} (hf : s.Fresh)
    (hc : CountsOk blocks keys)
    (hv : s.inp.load .vals (itemCount s.inp.vlen) = .ok blocks)
    (hk : s.inp.load .keys (itemCount s.inp.klen) = .ok keys) :
    ∃ t, (s.ensureBlocks >>= State.ensureKeys) = .ok t ∧ s.MidCommand d blocks keys none t := by
  have hbl : s.blkLoaded = false := by rw [← hf]; rfl
  have hkl : s.keyLoaded = false := by rw [← hf]; rfl
  have hbr : s.blockRound = none := by rw [← hf]; rfl
  let t1 : State := { s.setBlocks blocks with nv := some (itemCount s.inp.vlen), blkLoaded := true }
  have h1 : s.blockLoad = .ok t1 := by rw [State.blockLoad, hv, ok_bind]
  have hkl1 : t1.keyLoaded = false := hkl
  obtain ⟨t, ht, htr, htk, -⟩ := keyLoad_ok (s := t1) (keys := keys) hk (load_length hk)
  have ht' : t = { (t1.setKeys keys).allocSubkeys (itemCount s.inp.klen) with
      nk := some (itemCount s.inp.klen), keyRound := none, keyLoaded := true } := by
    have hk1 : t1.inp.load .keys (itemCount t1.inp.klen) = .ok keys := hk
    rw [State.keyLoad, hk1, ok_bind, Except.ok.injEq] at ht
    exact ht.symm
  refine ⟨t, ?_, .inl ⟨htr, htk⟩, ?_, fun kr br => ?_⟩
  · rw [State.ensureBlocks, hbl, if_neg (by simp), h1, ok_bind, State.ensureKeys, hkl1, if_neg (by simp)]
    exact ht
  · have hb : (pairUp blocks keys).map (fun p => blockAfter d p.2 none p.1) = blocks := by
      have : (fun p : Quad × Quad => blockAfter d p.2 none p.1) = Prod.fst := rfl
      rw [this]
      apply List.ext_getElem (by simp [pairUp_length hc])
      intro i hi hi'
      simp [pairUp_getElem hc i hi']
    rw [State.withBlocksAt, hb, ht', load_length hv]
    simp only [State.setBlocks, State.setKeys, State.allocSubkeys, t1, hbr]
  · rw [ht']
    rfl

/-- From a coherent state, the rewind test and the loads give the state in the middle of a command at a position
behind the cut point (R133). -/
theorem prepare_ok {s : State} {d : Direction} {blocks keys : List Quad} (hco : s.Coherent)
    (hd : s.dir = some d) (hc : CountsOk blocks keys)
    (hv : s.inp.load .vals (itemCount s.inp.vlen) = .ok blocks)
    (hk : s.inp.load .keys (itemCount s.inp.klen) = .ok keys) (round : Round) :
    ∃ t b, s.prepare round = .ok t ∧ tagVal b < (round.val : Int) ∧ s.MidCommand d blocks keys b t := by
  have hneg : tagVal none < (round.val : Int) := by simp only [tagVal]; omega
  by_cases hrw : tagVal s.blockRound ≥ (round.val : Int)
  · obtain ⟨t, ht, hm⟩ := prepare_fresh (s := s.engineReset) (d := d) rfl hc hv hk
    refine ⟨t, none, ?_, hneg, hm.1, hm.2.1, fun kr br => (hm.2.2 kr br).trans rfl⟩
    simp only [State.prepare, State.rewindTest, if_pos hrw]
    exact ht
  · rcases hco with hf | ⟨d', blocks', keys', kr, hd', -, -, hv', hk', hs⟩
    · obtain ⟨t, ht, hm⟩ := prepare_fresh (d := d) hf hc hv hk
      refine ⟨t, none, ?_, hneg, hm⟩
      simp only [State.prepare, State.rewindTest, if_neg hrw]
      exact ht
    · rw [hv', Except.ok.injEq] at hv
      rw [hk', Except.ok.injEq] at hk
      rw [hd', Option.some.injEq] at hd
      subst hv hk hd
      refine ⟨s, s.blockRound, ?_, by omega, .inr ⟨kr, ?_⟩, ?_, fun kr br => rfl⟩
      · have hbl : s.blkLoaded = true := by rw [hs]; rfl
        have hkl : s.keyLoaded = true := by rw [hs]; rfl
        rw [State.prepare, State.rewindTest, if_neg hrw, State.ensureBlocks, if_pos hbl, ok_bind, State.ensureKeys,
          if_pos hkl]
      · conv_lhs => rw [hs]
        conv_rhs => rw [hs]
        rfl
      · conv_lhs => rw [hs]
        conv_rhs => rw [hs]
        rfl

/-- Between the checks and the capture: the live state at the position before the cut point and at its key round,
whatever coherent state the command started from (R133 to R135, R149). -/
theorem toCutPoint_ok {s : State} {d : Direction} {blocks keys : List Quad} (hco : s.Coherent)
    (hd : s.dir = some d) (hc : CountsOk blocks keys)
    (hv : s.inp.load .vals (itemCount s.inp.vlen) = .ok blocks)
    (hk : s.inp.load .keys (itemCount s.inp.klen) = .ok keys) (round : Round) :
    s.toCutPoint d round = .ok (s.withLive d blocks keys (ksRound d round) (before round)) := by
  obtain ⟨t, b, ht, hb, hm⟩ := prepare_ok hco hd hc hv hk round
  obtain ⟨t', ht', hm'⟩ := fullRounds_ok hc hk b round hb hm
  rw [State.toCutPoint, ht, ok_bind, midCommand_blockRound hm, ht', ok_bind]
  exact midCommand_keyAdvance hm' hk (ksRound d round)

end Sys2Proof.Machine
end

