-- ==== Sys2Proof/Laws/Execute.lean ====
section
/-! SUPPORT. What the checks and the step variants of `EXECUTE` can do (spec 44_driver.md R131, R132, R136 to R143). -/

namespace Sys2Proof.Machine

/-! ### The checks (R131, R132, R167). -/

/-- The direction step of an accepted direction freezes it and changes nothing else (R131). -/
theorem dirStep_ok {s : State} {dec : Bool} (h : s.dir = none ∨ s.dir = some (Direction.ofDec dec)) :
    s.dirStep dec = .ok { s with dir := some (Direction.ofDec dec) } := by
  rcases h with h | h
  · simp [State.dirStep, h]
  · simp only [State.dirStep, h, if_true]
    rw [← h]

/-- All the direction step can do (R131). -/
theorem dirStep_cases (dec : Bool) (s : State) :
    ((s.dir = none ∨ s.dir = some (Direction.ofDec dec)) ∧
        s.dirStep dec = .ok { s with dir := some (Direction.ofDec dec) }) ∨
      (∃ d, s.dir = some d ∧ d ≠ Direction.ofDec dec ∧ s.dirStep dec = .error .directionSwitch) := by
  cases hd : s.dir with
  | none => exact .inl ⟨.inl rfl, dirStep_ok (.inl hd)⟩
  | some d =>
    by_cases he : d = Direction.ofDec dec
    · exact .inl ⟨.inr (by rw [he]), dirStep_ok (.inr (by rw [hd, he]))⟩
    · exact .inr ⟨d, rfl, he, by simp [State.dirStep, hd, he]⟩

/-- All the input checks can do (R132, R167). -/
theorem inputStep_cases (rnd : Nat) (s : State) :
    (∃ round : Round, round.val + 1 = rnd ∧ s.inp.shapeOk = true ∧ itemCount s.inp.vlen ≤ s.cfg.nmax ∧
        s.inputStep rnd = .ok round) ∨
      ((rnd < 1 ∨ 16 < rnd ∨ s.inp.shapeOk = false) ∧ s.inputStep rnd = .error .inputShape) ∨
      (1 ≤ rnd ∧ rnd ≤ 16 ∧ s.inp.shapeOk = true ∧ s.cfg.nmax < itemCount s.inp.vlen ∧
        s.inputStep rnd = .error .allocFail) := by
  simp only [State.inputStep]
  cases hr : roundOf? rnd with
  | none =>
    rw [roundOf?_eq_none] at hr
    exact .inr (.inl ⟨by tauto, rfl⟩)
  | some round =>
    rw [roundOf?_eq_some] at hr
    have := round.isLt
    cases hs : s.inp.shapeOk with
    | false => exact .inr (.inl ⟨.inr (.inr rfl), rfl⟩)
    | true =>
      by_cases hc : itemCount s.inp.vlen > s.cfg.nmax
      · exact .inr (.inr ⟨by omega, by omega, rfl, hc, by simp [hc]⟩)
      · exact .inl ⟨round, hr, rfl, by omega, by simp [hc]⟩

/-- The input checks of a command that passes them (R132). -/
theorem inputStep_ok {s : State} {round : Round} (hs : s.inp.shapeOk = true)
    (hn : itemCount s.inp.vlen ≤ s.cfg.nmax) : s.inputStep (round.val + 1) = .ok round := by
  have hr : roundOf? (round.val + 1) = some round := (roundOf?_eq_some _ _).mpr rfl
  simp [State.inputStep, hr, hs, show ¬ itemCount s.inp.vlen > s.cfg.nmax by omega]

/-- All that `EXECUTE` can do: a direction switch, a failed input check, or the variant's own part from the cut point
(R130). -/
theorem runExecute_cases (dec : Bool) (rnd : Nat) (cut : Round → State → Except Fault State) (s : State) :
    (∃ d, s.dir = some d ∧ d ≠ Direction.ofDec dec ∧
        runExecute dec rnd cut s = .next (s.raise .directionSwitch)) ∨
      (s.dir = none ∨ s.dir = some (Direction.ofDec dec)) ∧
        (((rnd < 1 ∨ 16 < rnd ∨ s.inp.shapeOk = false) ∧
            runExecute dec rnd cut s =
              .next (State.raise .inputShape { s with dir := some (Direction.ofDec dec) })) ∨
          (1 ≤ rnd ∧ rnd ≤ 16 ∧ s.inp.shapeOk = true ∧ s.cfg.nmax < itemCount s.inp.vlen ∧
            runExecute dec rnd cut s =
              .next (State.raise .allocFail { s with dir := some (Direction.ofDec dec) })) ∨
          (∃ round : Round, round.val + 1 = rnd ∧ s.inp.shapeOk = true ∧ itemCount s.inp.vlen ≤ s.cfg.nmax ∧
            runExecute dec rnd cut s =
              settle (State.toCutPoint (Direction.ofDec dec) round { s with dir := some (Direction.ofDec dec) } >>=
                cut round))) := by
  rcases dirStep_cases dec s with ⟨hd, he⟩ | ⟨d, hd, hne, he⟩
  · refine .inr ⟨hd, ?_⟩
    rcases inputStep_cases rnd { s with dir := some (Direction.ofDec dec) } with
      ⟨round, hr, hs, hn, hi⟩ | ⟨h, hi⟩ | ⟨h1, h2, hs, hn, hi⟩
    · exact .inr (.inr ⟨round, hr, hs, hn, by simp only [runExecute, he, hi]⟩)
    · exact .inl ⟨h, by simp only [runExecute, he, hi]⟩
    · exact .inr (.inl ⟨h1, h2, hs, hn, by simp only [runExecute, he, hi]⟩)
  · exact .inl ⟨d, hd, hne, by simp only [runExecute, he]⟩

/-- Freezing a direction keeps a state coherent, unless it is live in the other direction (R18, R131). -/
theorem coherent_freeze {s : State} {d : Direction} (h : s.Coherent) (hd : s.dir = none ∨ s.dir = some d) :
    State.Coherent { s with dir := some d } := by
  rcases h with h | ⟨d', blocks, keys, kr, hd', hs, hn, hv, hk, hw⟩
  · left
    have h' := congrArg (fun t : State => { t with dir := some d }) h
    exact h'
  · have hdd : d' = d := by
      rw [hd'] at hd
      simpa using hd
    subst hdd
    right
    refine ⟨d', blocks, keys, kr, rfl, hs, hn, hv, hk, ?_⟩
    have h' := congrArg (fun t : State => { t with dir := some d' }) hw
    exact h'

/-! ### The step variants from the cut point, on the live state (R136 to R143). -/

section
variable (d : Direction) (blocks keys : List Quad) (round : Round) (s : State)

/-- The state at the cut point: the live state at the position before the round and at its key round. -/
abbrev cutState : State := s.withLive d blocks keys (ksRound d round) (before round)

theorem cutRkey_ok :
    cutRkey round (cutState d blocks keys round s) =
      .ok ((cutState d blocks keys round s).capture (statelessOut d round .rkey blocks keys)) := by
  have hn : (cutState d blocks keys round s).readNk = .ok keys.length := rfl
  have hread := forEach_readSubkeys (withLive_holdsSubkeys d blocks keys (ksRound d round) (before round) s)
  rw [List.length_map] at hread
  rw [cutRkey, hn, ok_bind, hread, ok_bind, List.map_map]
  rfl

variable (h : CountsOk blocks keys)
include h

theorem cutRight_ok :
    cutRight round (cutState d blocks keys round s) =
      .ok ((cutState d blocks keys round s).capture (statelessOut d round .right blocks keys)) := by
  have hn : (cutState d blocks keys round s).readNv = .ok blocks.length := rfl
  have hread := forEach_readNamed
    (withLive_holdsBlocks d blocks keys (ksRound d round) (before round) s (pairUp_length h)) round
  rw [List.length_map, pairUp_length h] at hread
  rw [cutRight, hn, ok_bind, hread, ok_bind, List.map_map, List.map_map]
  rfl

theorem cutArk_ok :
    cutArk round (cutState d blocks keys round s) =
      .ok ((cutState d blocks keys round s).capture (statelessOut d round .ark blocks keys)) := by
  have hn : (cutState d blocks keys round s).readNv = .ok blocks.length := rfl
  rw [cutArk, hn, ok_bind, allSteps_ok d blocks keys round (before round) s h, ok_bind, List.map_map]
  rfl

theorem cutGda_ok :
    cutGda round (cutState d blocks keys round s) =
      .ok ((cutState d blocks keys round s).capture (statelessOut d round .gda blocks keys)) := by
  have hn : (cutState d blocks keys round s).readNv = .ok blocks.length := rfl
  rw [cutGda, hn, ok_bind, allSteps_ok d blocks keys round (before round) s h, ok_bind, List.map_map]
  rfl

theorem cutGc_ok :
    cutGc round (cutState d blocks keys round s) =
      .ok ((cutState d blocks keys round s).capture (statelessOut d round .gc blocks keys)) := by
  have hn : (cutState d blocks keys round s).readNv = .ok blocks.length := rfl
  rw [cutGc, hn, ok_bind, allSteps_ok d blocks keys round (before round) s h, ok_bind, List.map_map]
  rfl

theorem cutGdb_ok :
    cutGdb round (cutState d blocks keys round s) =
      .ok ((cutState d blocks keys round s).capture (statelessOut d round .gdb blocks keys)) := by
  have hn : (cutState d blocks keys round s).readNv = .ok blocks.length := rfl
  rw [cutGdb, hn, ok_bind, allSteps_ok d blocks keys round (before round) s h, ok_bind, List.map_map]
  rfl

theorem cutF_ok :
    cutF round (cutState d blocks keys round s) =
      .ok ((s.withLive d blocks keys (ksRound d round) (some round)).capture
        (statelessOut d round .f blocks keys)) := by
  have hn : (cutState d blocks keys round s).readNv = .ok blocks.length := rfl
  rw [cutF, hn, ok_bind, allSteps_ok d blocks keys round (before round) s h, ok_bind, applyAll_ok, List.map_map]
  rfl

theorem cutOut_ok :
    cutOut round (cutState d blocks keys round s) =
      .ok ((s.withLive d blocks keys (ksRound d round) (some round)).capture
        (statelessOut d round .out blocks keys)) := by
  have hn : (s.withLive d blocks keys (ksRound d round) (some round)).readNv = .ok blocks.length := rfl
  have hread := forEach_readNamed
    (withLive_holdsBlocks d blocks keys (ksRound d round) (some round) s (pairUp_length h)) round
  rw [List.length_map, pairUp_length h] at hread
  rw [cutOut, roundFull_ok d blocks keys round s h, ok_bind, hn, ok_bind, hread, ok_bind, List.map_map]
  rfl

end

end Sys2Proof.Machine
end

