-- ==== Sys2Proof/Laws/PerInstr.lean ====
section
/-! SUPPORT. What is said of every command, one lemma per constructor: its word stands in the row of the
opcode map that its mnemonic names (spec 30_encoding.md R62, section 3). -/

namespace Sys2Proof.Laws

/-- The word of the command has the `match` bits of its row under the row's `mask`. -/
def OpcodeRow.Statement (i : Instr) : Prop := encode i &&& maskBits i = matchBits i

/-- The fixed bits of the word of an `EXECUTE`. -/
theorem execWord_masked (st : StepId) (dec : Bool) (rnd : Nat) :
    execWord st dec rnd &&& 0xF03F#16 = 0x1000#16 ||| (BitVec.ofNat 16 st.id <<< 2) := by
  simp only [execWord]
  generalize BitVec.ofNat 5 rnd = x
  revert x
  cases st <;> cases dec <;> decide

theorem OpcodeRow.reset : OpcodeRow.Statement .reset := by
  simp [OpcodeRow.Statement, encode, maskBits, matchBits]

theorem OpcodeRow.rkey (dec : Bool) (rnd : Nat) : OpcodeRow.Statement (.rkey dec rnd) :=
  execWord_masked .rkey dec rnd

theorem OpcodeRow.right (dec : Bool) (rnd : Nat) : OpcodeRow.Statement (.right dec rnd) :=
  execWord_masked .right dec rnd

theorem OpcodeRow.ark (dec : Bool) (rnd : Nat) : OpcodeRow.Statement (.ark dec rnd) :=
  execWord_masked .ark dec rnd

theorem OpcodeRow.gda (dec : Bool) (rnd : Nat) : OpcodeRow.Statement (.gda dec rnd) :=
  execWord_masked .gda dec rnd

theorem OpcodeRow.gc (dec : Bool) (rnd : Nat) : OpcodeRow.Statement (.gc dec rnd) :=
  execWord_masked .gc dec rnd

theorem OpcodeRow.gdb (dec : Bool) (rnd : Nat) : OpcodeRow.Statement (.gdb dec rnd) :=
  execWord_masked .gdb dec rnd

theorem OpcodeRow.f (dec : Bool) (rnd : Nat) : OpcodeRow.Statement (.f dec rnd) :=
  execWord_masked .f dec rnd

theorem OpcodeRow.out (dec : Bool) (rnd : Nat) : OpcodeRow.Statement (.out dec rnd) :=
  execWord_masked .out dec rnd

end Sys2Proof.Laws
end

