-- ==== Sys2Proof/Tests/Slice0.lean ====
section
/-! SUPPORT. Tests of the model, their expected values taken from the spec (95_test_vectors.md and the examples of the
rules), and for every statement with hypotheses a state and operands that meet them. -/

namespace Sys2Proof.Tests
open Sys2Proof.Machine

-- one theorem at a time: each evaluation in the kernel would else hold a thread with a large stack
set_option Elab.async false

/-! ### Well-formed commands (R61) -/

theorem test_wf_rnd_31 : (Instr.out true 31).wellFormed = true := by decide

theorem test_wf_refuses_rkey : (Instr.rkey false 32).wellFormed = false := by decide

theorem test_wf_refuses_right : (Instr.right false 32).wellFormed = false := by decide

theorem test_wf_refuses_ark : (Instr.ark true 32).wellFormed = false := by decide

theorem test_wf_refuses_gda : (Instr.gda true 33).wellFormed = false := by decide

theorem test_wf_refuses_gc : (Instr.gc false 40).wellFormed = false := by decide

theorem test_wf_refuses_gdb : (Instr.gdb false 64).wellFormed = false := by decide

theorem test_wf_refuses_f : (Instr.f true 32).wellFormed = false := by decide

theorem test_wf_refuses_out : (Instr.out false 1000).wellFormed = false := by decide

/-! ### Words written out from the fields of 30_encoding.md: op, dec, rnd, step, zero -/

theorem test_decode_reset : decode 0b0000_0_00000_0000_00#16 = .instr .reset := by decide

theorem test_decode_rkey : decode 0b0001_1_00011_0000_00#16 = .instr (.rkey true 3) := by decide

theorem test_decode_right : decode 0b0001_0_00010_0001_00#16 = .instr (.right false 2) := by decide

theorem test_decode_ark : decode 0b0001_0_00001_0010_00#16 = .instr (.ark false 1) := by decide

theorem test_decode_gda : decode 0b0001_0_00001_0011_00#16 = .instr (.gda false 1) := by decide

theorem test_decode_gc : decode 0b0001_0_00001_0100_00#16 = .instr (.gc false 1) := by decide

theorem test_decode_gdb : decode 0b0001_1_01001_0101_00#16 = .instr (.gdb true 9) := by decide

theorem test_decode_f : decode 0b0001_0_10000_0110_00#16 = .instr (.f false 16) := by decide

theorem test_decode_out : decode 0b0001_0_10000_0111_00#16 = .instr (.out false 16) := by decide

/-- The illegal words of 95_test_vectors.md, section 2.1. -/
theorem test_decode_illegal :
    decode 0x1000#16 = .instr (.rkey false 0) ∧ decode 0x145C#16 = .instr (.out false 17) ∧
      decode 0x17DC#16 = .instr (.out false 31) ∧ decode 0x1060#16 = .unknownStep false 1 8 ∧
      decode 0x107C#16 = .unknownStep false 1 15 ∧ decode 0x1041#16 = .reserved .lowBits ∧
      decode 0x0004#16 = .reserved .resetFields ∧ decode 0x2000#16 = .reserved .operation ∧
      decode 0xFFFF#16 = .reserved .lowBits := by decide

/-- The worked encodings of 30_encoding.md, section 3. -/
theorem test_encode : encode pseudoEncrypt = 0x141C#16 ∧ encode pseudoDecrypt = 0x1C1C#16 ∧
    encode (.ark false 1) = 0x1048#16 ∧ encode (.rkey true 3) = 0x18C0#16 ∧ encode .reset = 0x0000#16 := by decide

theorem test_decodeTableWord : decodeTableWord 16 0x141C = some (.out false 16) ∧
    decodeTableWord 16 0 = some .reset ∧ decodeTableWord 16 0x1060 = none := by decide

/-! ### Small states -/

/-- The bytes of 128 bits, the first in the most significant byte. -/
def bytes16 (x : Nat) : List Byte := (List.range 16).map fun i => BitVec.ofNat 8 (x >>> (8 * (15 - i)))

/-- The plaintext and the ciphertext of T1, the plaintext of T3, and the keys of both (95_test_vectors.md, section 1). -/
def plain1 : List Byte := bytes16 0x000102030405060708090A0B0C0D0E0F
def cipher1 : List Byte := bytes16 0x5EBAC6E0054E166819AFF1CC6D346CDB
def plain3 : List Byte := bytes16 0x83A2F8A288641FB9A4E9A5CC2F131C7D
def key1 : List Byte := bytes16 0
def key3 : List Byte := bytes16 0x4706480851E61BE85D74BFB3FD956185

/-- A fresh engine with T1 in its buffers. -/
def one : State := State.reset.freshWith plain1 key1

/-- A fresh engine with three blocks and one key (95_test_vectors.md, section 2.9). -/
def three : State := State.reset.freshWith (plain1 ++ plain3 ++ bytes16 0) key1

/-- A fresh engine with two blocks and a key for each. -/
def two : State := State.reset.freshWith (plain1 ++ plain3) (key1 ++ key3)

/-- A fresh engine with an empty batch. -/
def noBlocks : State := State.reset.freshWith [] key1

/-- The state a command leaves, if it leaves one. -/
def nextOf : Host.Outcome State Fault Refusal → Option State
  | .next t => some t
  | .fault _ => none
  | .refused _ => none

/-- The host writes the word and the command runs. -/
def run (w : CmdWord) (s : State) : Option State := nextOf (step (s.writeCmd w))

/-- `OUT`, `BLOCK_ROUND`, `KEY_ROUND` and `ERR` after the command. -/
def seen (w : CmdWord) (s : State) : Option (OutBuf × Int × Int × ErrCode) :=
  (run w s).map fun t => (t.out, tagVal t.blockRound, tagVal t.keyRound, t.err)

theorem exists_of_nextOf {o : Host.Outcome State Fault Refusal} {p : State → Bool}
    (h : (nextOf o).any p = true) : ∃ t, o = .next t ∧ p t = true := by
  cases o with
  | next t => exact ⟨t, rfl, h⟩
  | fault e => simp [nextOf] at h
  | refused r => simp [nextOf] at h

/-- The state of an outcome, or the one given. -/
def orElse (o : Host.Outcome State Fault Refusal) (s : State) : State := (nextOf o).getD s

/-- T1 after `EXEC.F E, 1`: position 0, key round 0. -/
def live : State := orElse (exec (.f false 1) one) one

/-! ### One step each: 95_test_vectors.md, sections 2.8 and 2.9 -/

theorem test_rkey : seen 0x1040 three = some (OutBuf.mk 1 1 64 (.w64 [0x7C8F8C7EC737A22C#64]),
    -1, 0, .ok) := by decide +kernel

theorem test_rkey_decrypt : seen 0x1840 one = some (OutBuf.mk 1 1 64 (.w64 [0x7189115098B255B0#64]), -1, 15, .ok) := by decide +kernel

theorem test_right : seen 0x1044 three = some (OutBuf.mk 3 1 64 (.w64 [0x08090A0B0C0D0E0F#64, 0xA4E9A5CC2F131C7D#64, 0#64]), -1, 0, .ok) := by decide +kernel

theorem test_right_odd : seen 0x1084 one = some (OutBuf.mk 1 1 64 (.w64 [0x8081BC57C4EA8A1F#64]), 0, 1, .ok) := by decide +kernel

theorem test_ark : seen 0x1048 three = some (OutBuf.mk 3 1 64 (.w64 [0x74868675BFBC2A56#64, 0xD86629B2304297E3#64, 0x7C8F8C7EBBB82E52#64]), -1, 0, .ok) := by
  decide +kernel

theorem test_ark_keys : seen 0x1048 two = some (OutBuf.mk 2 1 64 (.w64 [0x74868675BFBC2A56#64, 0xF257EFC334B2DBC9#64]), -1, 0, .ok) := by decide +kernel

theorem test_gda : seen 0x104C three = some (OutBuf.mk 3 1 32 (.w32 [0x3F7F11EF#32, 0xD821D655#32, 0xB1A41913#32]), -1, 0, .ok) := by decide +kernel

theorem test_gc : seen 0x10D0 three = some (OutBuf.mk 3 1 32 (.w32 [0x9A25F014#32, 0xB7A767C5#32, 0x545E6E26#32]), 1, 2, .ok) := by decide +kernel

theorem test_gdb : seen 0x1054 one = some (OutBuf.mk 1 1 32 (.w32 [0xC0EF8C18#32]), -1, 0, .ok) := by
  decide +kernel

theorem test_gdb_decrypt : seen 0x1854 (State.reset.freshWith cipher1 key1) = some (OutBuf.mk 1 1 32 (.w32 [0xA5659A3C#32]), -1, 15, .ok) := by decide +kernel

theorem test_f : seen 0x1058 three = some (OutBuf.mk 3 1 64 (.w64 [0x8080BE54C0EF8C18#64, 0x82530656591B9EEE#64, 0x1EBAE080048B3EF9#64]), 0, 0, .ok) := by
  decide +kernel

/-- The columns after `EXEC.F E, 1` (R142, example). -/
theorem test_f_columns : (run 0x1058 one).map (fun t => (t.v1, t.v2, t.v3, t.v4)) =
    some ([0x8081BC57#32], [0xC4EA8A1F#32], [0x08090A0B#32], [0x0C0D0E0F#32]) := by decide +kernel

theorem test_out_encrypt : seen 0x141C one = some (OutBuf.mk 1 16 8 (.w8 cipher1), 15, 15, .ok) := by
  decide +kernel

theorem test_out_decrypt : seen 0x1C1C (State.reset.freshWith cipher1 key1) =
    some (OutBuf.mk 1 16 8 (.w8 plain1), 15, 0, .ok) := by decide +kernel

/-- `RESET` after `EXEC.F`: tags −1, direction kept, `OUT` still the F capture (R144, example). -/
theorem test_reset : (run 0x0000 live).map (fun t => (tagVal t.blockRound, tagVal t.keyRound, t.dir, t.out.elems)) =
    some (-1, -1, some .encrypt, .w64 [0x8080BE54C0EF8C18#64]) := by decide +kernel

/-- An empty batch has no rows (R132, D16). -/
theorem test_empty_batch : seen 0x105C noBlocks = some (OutBuf.mk 0 16 8 (.w8 []), 0, 0, .ok) := by
  decide +kernel

/-- The errors of 95_test_vectors.md, section 2.11: shape, capacity, direction before shape. -/
theorem test_errors :
    (run 0x141C (one.writeVlen 17)).map (fun t => (t.err, t.dir, t.out)) =
      some (.inputShape, some .encrypt, OutBuf.empty) ∧
    (run 0x141C (one.writeVlen 80)).map (fun t => (t.err, t.dir)) = some (.allocFail, some .encrypt) ∧
    (run 0x1998 (live.writeVlen 17)).map (fun t => (t.err, t.dir)) = some (.directionSwitch, some .encrypt) ∧
    (run 0x1060 one).map (fun t => (t.err, t.dir)) = some (.inputShape, some .encrypt) ∧
    (run 0x2000 one).map (fun t => (t.err, t.dir)) = some (.inputShape, none) := by decide +kernel

/-- The worked values of `G` (R82) and of the key schedule (42_key_schedule.md, section 4). -/
theorem test_g : gFun 0x61C88647#32 = 0x7C8F8C7E#32 ∧ gFun 0x9E3779B9#32 = 0xC737A22C#32 ∧
    gFun 0x12345678#32 = 0x15F5FAFF#32 := by decide +kernel

theorem test_key_state : keyState 12 { w1 := 0x00010203#32, w2 := 0x04050607#32, w3 := 0x08090A0B#32, w4 := 0x0C0D0E0F#32 } =
    { w1 := 0x02030405#32, w2 := 0x06070001#32, w3 := 0x0E0F0809#32, w4 := 0x0A0B0C0D#32 } := by decide +kernel

/-! ### Witnesses: states and operands that meet the hypotheses of the statements -/

/-- The hypotheses of the statements on one step variant, of the prefix, of `ExecuteEqualsTheStatelessRun` and of
`EveryWordCompletes`, on a fresh engine: round 0 and round 15, one key and one key per block, an empty batch. -/
theorem test_witness_accepted :
    (one.Coherent ∧ one.Accepts false ((0 : Round).val + 1)) ∧
    (two.Coherent ∧ two.Accepts true ((15 : Round).val + 1)) ∧
    (three.Coherent ∧ three.Accepts true ((0 : Round).val + 1)) ∧
    (noBlocks.Coherent ∧ noBlocks.Accepts false ((15 : Round).val + 1)) := by
  simp only [State.Accepts]
  exact ⟨⟨.inl rfl, by decide +kernel⟩, ⟨.inl rfl, by decide +kernel⟩, ⟨.inl rfl, by decide +kernel⟩,
    ⟨.inl rfl, by decide +kernel⟩⟩

/-- The same hypotheses on an engine with a live prefix, ahead of its position. -/
theorem test_witness_accepted_live : live.Coherent ∧ live.Accepts false ((1 : Round).val + 1) := by
  refine ⟨.inr ⟨.encrypt, [{ w1 := 0x00010203#32, w2 := 0x04050607#32, w3 := 0x08090A0B#32, w4 := 0x0C0D0E0F#32 }],
    [{ w1 := 0#32, w2 := 0#32, w3 := 0#32, w4 := 0#32 }], 0, ?_⟩, ?_⟩
  · decide +kernel
  · simp only [State.Accepts]
    decide +kernel

/-- The same hypotheses on an engine whose lengths say one block and one key and whose bytes nothing has written. -/
def unwritten : State := ((State.reset.writeVlen 16).writeKlen 16).writeCmd 0x141C#16

theorem test_witness_accepted_unwritten : unwritten.Coherent ∧ unwritten.Accepts false ((15 : Round).val + 1) := by
  simp only [State.Accepts]
  exact ⟨.inl rfl, by decide +kernel⟩

/-- `DecodeEncodeRoundTrip`, `WrittenCommandRuns` and `EncodeIsTheOnlyWord`. -/
theorem test_witness_words : Instr.reset.wellFormed = true ∧ (Instr.out true 31).wellFormed = true ∧
    decode 0x1FDC#16 = .instr (.out true 31) := by decide

/-- The clauses of `DecodeReadsTheFields`, at the boundaries of the fields. -/
theorem test_witness_fields :
    ((0x1041#16).toNat % 4 ≠ 0 ∧ 2 ≤ (0x2000#16).toNat / 4096 ∧ 2 ≤ (0xFFFF#16).toNat / 4096) ∧
    ((0x0004#16).toNat / 4096 = 0 ∧ (0x0004#16).toNat ≠ 0) ∧ (0x0000#16).toNat = 0 ∧
    ((0x1FDC#16).toNat % 4 = 0 ∧ (0x1FDC#16).toNat / 4096 = 1 ∧ (true = true ↔ (0x1FDC#16).toNat / 2048 % 2 = 1) ∧
      (0x1FDC#16).toNat / 4 % 16 = StepId.out.id) ∧
    ((0x1020#16).toNat % 4 = 0 ∧ (0x1020#16).toNat / 4096 = 1 ∧ (false = true ↔ (0x1020#16).toNat / 2048 % 2 = 1) ∧
      8 ≤ (0x1020#16).toNat / 4 % 16) := by decide

/-- The clauses of `StepRunsTheDecodedCommand`. -/
theorem test_witness_step :
    decode (one.writeCmd 0x141C).inp.cmd = .instr (.out false 16) ∧
    (decode (one.writeCmd 0x1060).inp.cmd = .unknownStep false 1 8 ∧ (one.writeCmd 0x1060).dir = none) ∧
    (decode (live.writeCmd 0x1860).inp.cmd = .unknownStep true 1 8 ∧
      (live.writeCmd 0x1860).dir = some (Direction.ofDec (!true))) ∧
    decode (one.writeCmd 0x2000).inp.cmd = .reserved .operation := by decide +kernel

/-- `DirectionSwitchIsRefused`. -/
theorem test_witness_direction : live.dir = some (Direction.ofDec (!true)) := by decide +kernel

/-- The causes of `BadShapeIsRefused`, each alone. -/
theorem test_witness_shape :
    one.dir = none ∧ (one.writeVlen 17).inp.vlen % 16 ≠ 0 ∧ (one.writeKlen 15).inp.klen % 16 ≠ 0 ∧
    ((two.writeKlen 48).inp.klen / 16 ≠ 1 ∧ (two.writeKlen 48).inp.klen / 16 ≠ (two.writeKlen 48).inp.vlen / 16) ∧
    0 < 1 ∧ 16 < 17 := by decide +kernel

/-- `TooManyBlocksAreRefused`: one block more than the columns hold. -/
theorem test_witness_capacity : (one.writeVlen 80).dir = none ∧ (one.writeVlen 80).inp.vlen % 16 = 0 ∧
    (one.writeVlen 80).inp.klen % 16 = 0 ∧ (one.writeVlen 80).inp.klen / 16 = 1 ∧
    (one.writeVlen 80).cfg.nmax < (one.writeVlen 80).inp.vlen / 16 := by decide +kernel

/-- The four branches of `ErrIsTheFirstFailedCheck`. -/
theorem test_witness_err :
    (∃ t, exec (.out true 6) (live.writeVlen 17) = .next t ∧ decide (t.err = .directionSwitch) = true) ∧
    (∃ t, exec (.out false 6) (one.writeVlen 17) = .next t ∧ decide (t.err = .inputShape) = true) ∧
    (∃ t, exec (.out false 6) (one.writeVlen 80) = .next t ∧ decide (t.err = .allocFail) = true) ∧
    (∃ t, exec (.rkey false 1) one = .next t ∧ decide (t.err = .ok) = true) :=
  ⟨exists_of_nextOf (by decide +kernel), exists_of_nextOf (by decide +kernel), exists_of_nextOf (by decide +kernel),
    exists_of_nextOf (by decide +kernel)⟩

/-- `ErrorLeavesAFreshEngine`, `StepLeavesTheInputs` and both clauses of `DirectionIsFrozen`. -/
theorem test_witness_error :
    (live.dir.isSome = true ∧ ∃ t, step (live.writeCmd 0x2000) = .next t ∧ decide (t.err ≠ .ok) = true) ∧
    (one.dir = none ∧ ∃ t, step (one.writeCmd 0x1C40) = .next t ∧ decide (t.dir = some .decrypt) = true) :=
  ⟨⟨by decide +kernel, exists_of_nextOf (by decide +kernel)⟩, ⟨by decide +kernel, exists_of_nextOf (by decide +kernel)⟩⟩

/-- The table statements that bound a number: `RoundConstantsRotate`, `ByteOrder`. -/
theorem test_witness_bounds : 1 ≤ (1 : Round).val ∧ 1 ≤ (15 : Round).val ∧ 0 < 4 ∧ 3 < 4 := by decide

/-- `LoadReadsBigEndianWords`: the block of T1, written; and a length over bytes that nothing has written. -/
theorem test_witness_load : (16 * 1 ≤ one.inp.len .vals ∧
    ∀ a, a < 16 * 1 → (one.inp.mem .vals).read a = some (BitVec.ofNat 8 a)) ∧ 16 * 1 ≤ unwritten.inp.len .keys := by
  decide +kernel

/-- `LoadReadsOnlyItsBytes`: two buffers that differ past the first block. -/
theorem test_witness_load_bytes : 16 * 1 ≤ two.inp.len .vals ∧ 16 * 1 ≤ three.inp.len .vals ∧ two.inp ≠ three.inp ∧
    ∀ x, x < 16 * 1 → two.inp.byteAt .vals x = three.inp.byteAt .vals x := by decide +kernel

/-- `LoadedBlocksAreNotReadAgain`. -/
theorem test_witness_loaded : live.blkLoaded = true ∧ tagVal live.blockRound < (((1 : Round).val : Nat) : Int) ∧
    ∃ t, exec (Instr.ofStep .right false ((1 : Round).val + 1)) live = .next t ∧ decide (t.err = .ok) = true :=
  ⟨by decide +kernel, by decide +kernel, exists_of_nextOf (by decide +kernel)⟩

/-- `KeyRotations`: odd and even rounds at the ends of their ranges. -/
theorem test_witness_rotations : (1 : Round).val % 2 = 1 ∧ (15 : Round).val % 2 = 1 ∧
    ((2 : Round).val % 2 = 0 ∧ (2 : Round).val ≠ 0) ∧ ((14 : Round).val % 2 = 0 ∧ (14 : Round).val ≠ 0) := by decide

/-- A state with one block and one key loaded and the subkeys of key round 1, its position −1; not a state a run
reaches. -/
def small : State :=
  { State.reset with
    v1 := [0x00010203#32], v2 := [0x04050607#32], v3 := [0x08090A0B#32], v4 := [0x0C0D0E0F#32]
    k1 := [1#32], k2 := [2#32], k3 := [3#32], k4 := [4#32]
    ks0 := [some 0x7C8F8C7E#32], ks1 := [some 0xC737A22C#32]
    nv := some 1, nk := some 1, blkLoaded := true, keyLoaded := true, keyRound := some 1, dir := some .encrypt }

theorem small_wf : small.Wf := by
  constructor <;>
    simp [small, State.reset, OutBuf.empty, Elems.width, Elems.count, Inputs.afterReset, chosenConfig, Memory.wf]

theorem fresh_wf (w : CmdWord) : (one.writeCmd w).Wf := by
  have h : (one.writeCmd w).inp.vals.wf ∧ (one.writeCmd w).inp.keys.wf := by
    show one.inp.vals.wf ∧ one.inp.keys.wf
    decide +kernel
  constructor
  · exact fun _ => ⟨rfl, rfl, rfl, rfl, rfl, rfl⟩
  · exact fun hb => absurd hb Bool.false_ne_true
  · exact fun _ => ⟨rfl, rfl, rfl, rfl, rfl, rfl, rfl, rfl⟩
  · exact fun hk => absurd hk Bool.false_ne_true
  · exact fun x hx => absurd hx (by simp [one, State.freshWith, State.hreset, State.engineReset, State.setVals,
      State.setKeyBytes, State.writeCmd])
  · exact fun hp => absurd hp Bool.false_ne_true
  · rfl
  · rfl
  · exact h.1
  · exact h.2
  · show 1 ≤ 4
    decide

/-- A computation ends well. -/
def endsWell {α : Type} (x : Except Fault α) : Bool := x.toOption.isSome

theorem exists_of_endsWell {α : Type} {x : Except Fault α} (h : endsWell x = true) : ∃ a, x = .ok a := by
  cases x with
  | ok a => exact ⟨a, rfl⟩
  | error e => simp [endsWell, Except.toOption] at h

/-- `KeyStepDerivesTheSubkeys` and `KeyScheduleWritesTheKeyPart`: a step, an advance, and a rewind. -/
theorem test_witness_key_schedule : (∃ t, small.keyStep 2 = .ok t) ∧ (∃ t, small.keyAdvanceTo 3 = .ok t) ∧
    ∃ t, live.keyAdvanceTo 0 = .ok t :=
  ⟨exists_of_endsWell (by decide +kernel), exists_of_endsWell (by decide +kernel), exists_of_endsWell (by decide +kernel)⟩

/-- `RoundStepsFollowTheList`, in an even and in an odd round. -/
theorem test_witness_round_steps : (∃ p, small.blockSteps 0 0 = .ok p) ∧ ∃ p, small.blockSteps 15 0 = .ok p :=
  ⟨exists_of_endsWell (by decide +kernel), exists_of_endsWell (by decide +kernel)⟩

/-- `RoundFullUpdatesTwoColumns` and `RoundUndoesItself`, in an even and in an odd round. -/
theorem test_witness_round_full : small.Wf ∧
    (∃ t, small.roundFull 0 = .ok t ∧ ∃ u, t.roundFull 0 = .ok u) ∧
    ∃ t, small.roundFull 15 = .ok t ∧ ∃ u, t.roundFull 15 = .ok u := by
  refine ⟨small_wf, ?_, ?_⟩
  · obtain ⟨u, hu⟩ := exists_of_endsWell (x := small.roundFull 0 >>= State.roundFull 0) (by decide +kernel)
    cases h : small.roundFull 0 with
    | ok t => exact ⟨t, rfl, u, by rw [h] at hu; exact hu⟩
    | error e => rw [h] at hu; cases hu
  · obtain ⟨u, hu⟩ := exists_of_endsWell (x := small.roundFull 15 >>= State.roundFull 15) (by decide +kernel)
    cases h : small.roundFull 15 with
    | ok t => exact ⟨t, rfl, u, by rw [h] at hu; exact hu⟩
    | error e => rw [h] at hu; cases hu

/-- `EarlierCommandsDoNotShow`: after `EXEC.F E, 1`, a second command at round 1 or 2. -/
theorem test_witness_earlier : one.Coherent ∧
    ∃ u, State.acts ([0x1058#16].map HostAct.command) one = .next u ∧
      decide ((u.dir = none ∨ u.dir = some (Direction.ofDec false)) ∧ 1 ≤ 2 ∧ 2 ≤ 16 ∧ u.inp.shapeOk = true ∧
        itemCount u.inp.vlen ≤ u.cfg.nmax) = true :=
  ⟨test_witness_accepted.1.1, exists_of_nextOf (by decide +kernel)⟩

/-- `RequestBehindThePositionStartsOver`: the round just completed. -/
theorem test_witness_behind : tagVal live.blockRound ≥ (((0 : Round).val : Nat) : Int) := by decide +kernel

/-- `DecryptUndoesEncrypt` and `BatchIsBlockByBlock`: one key, a key per block, no block. -/
theorem test_witness_batches :
    (plain1 ++ plain3).length % 16 = 0 ∧ (key1.length = 16 ∧ (key1 ++ key3).length = (plain1 ++ plain3).length) ∧
    (plain1 ++ plain3).length / 16 ≤ State.reset.cfg.nmax ∧ ([] : List Byte).length % 16 = 0 ∧
    1 < (plain1 ++ plain3).length / 16 ∧ 1 = keyIndex ((key1 ++ key3).length / 16) ((plain1 ++ plain3).length / 16) 1 := by
  decide +kernel

/-- `StepKeepsSoundness`, `StepKeepsCoherence` and `HostActsKeepSoundness`: sound and coherent states with a next one. -/
theorem test_witness_kept :
    ((one.writeCmd 0x1058).Wf ∧ ∃ t, step (one.writeCmd 0x1058) = .next t ∧ decide (t.err = .ok) = true) ∧
    (live.Coherent ∧ ∃ t, step (live.writeCmd 0x1098) = .next t ∧ decide (t.err = .ok) = true) ∧
    (small.Wf ∧ ∃ t, State.acts [.hreset Inputs.afterReset, .vals plain1, .keys key1, .command 0x1058] small = .next t ∧
      decide (t.err = .ok) = true) :=
  ⟨⟨fresh_wf 0x1058, exists_of_nextOf (by decide +kernel)⟩,
    ⟨test_witness_accepted_live.1, exists_of_nextOf (by decide +kernel)⟩,
    ⟨small_wf, exists_of_nextOf (by decide +kernel)⟩⟩

theorem test_witness_kept_inputs : ∀ after,
    HostAct.hreset after ∈ [HostAct.hreset Inputs.afterReset, .vals plain1, .keys key1, .command 0x1058] →
      after.vals.wf ∧ after.keys.wf := by
  intro after h
  obtain rfl : after = Inputs.afterReset := by simpa using h
  exact ⟨List.Pairwise.nil, List.Pairwise.nil⟩

/-- Two blocks under one key in the middle of a decryption, after which the host set both lengths to 0. -/
def broken : State :=
  { small with
    v1 := [1#32, 5#32], v2 := [2#32, 6#32], v3 := [3#32, 7#32], v4 := [4#32, 8#32], nv := some 2
    keyRound := some 15, blockRound := some 0, dir := some .decrypt
    inp := { Inputs.afterReset with cmd := 0x1888#16 } }

/-- The fault of an outcome, if it is one. -/
def faultOf : Host.Outcome State Fault Refusal → Option Fault
  | .next _ => none
  | .fault e => some e
  | .refused _ => none

theorem eq_of_faultOf {o : Host.Outcome State Fault Refusal} {e : Fault} (h : faultOf o = some e) : o = .fault e := by
  cases o <;> simp_all [faultOf]

/-- `FaultsAreTheHostsDoing`. -/
theorem test_witness_faults : broken.Wf ∧ step broken = .fault .noSubkey := by
  refine ⟨?_, eq_of_faultOf (by decide +kernel)⟩
  constructor <;>
    simp [broken, small, State.reset, OutBuf.empty, Elems.width, Elems.count, Inputs.afterReset, chosenConfig, Memory.wf]

/-- The plaintext, the key and the ciphertext of 44_driver.md R143's example. -/
def plain16 : List Byte := (List.range 16).map (BitVec.ofNat 8)

def zero16 : List Byte := List.replicate 16 0#8

def cipher16 : List Byte := [0x5E#8, 0xBA#8, 0xC6#8, 0xE0#8, 0x05#8, 0x4E#8, 0x16#8, 0x68#8,
  0x19#8, 0xAF#8, 0xF1#8, 0xCC#8, 0x6D#8, 0x34#8, 0x6C#8, 0xDB#8]

/-- R143's example as the result of a command on a fresh engine, and the way back (R148 property 1). -/
theorem test_fresh_result :
    State.reset.freshResult pseudoEncrypt plain16 zero16 =
        some { rows := 1, cols := 16, ew := 8, elems := .w8 cipher16 } ∧
      State.reset.freshResult pseudoDecrypt cipher16 zero16 =
        some { rows := 1, cols := 16, ew := 8, elems := .w8 plain16 } ∧
      State.reset.freshResult (.out false 17) plain16 zero16 = none := by
  refine ⟨?_, ?_, ?_⟩ <;> decide +kernel

/-- `EngineHasTheSevenProperties`: a legal engine; valid inputs at both ends of the rounds, for one block with its key, for
two blocks with two keys and with one; and after words of every kind in the one direction a command has a result. -/
theorem test_witness_seven_properties : State.reset.cfg.legal ∧
    State.reset.ValidInputs plain16 zero16 1 ∧ State.reset.ValidInputs plain16 zero16 16 ∧
    State.reset.ValidInputs (plain16 ++ cipher16) (zero16 ++ plain16) 16 ∧
    State.reset.ValidInputs (plain16 ++ cipher16) zero16 16 ∧
    (nextOf (State.acts ([0x1048#16, 0x1000#16, 0x2000#16, 0x0000#16].map HostAct.command)
      (State.reset.freshWith plain16 zero16))).bind (fun u => u.result (.out false 16)) =
        some { rows := 1, cols := 16, ew := 8, elems := .w8 cipher16 } := by
  simp only [State.ValidInputs]
  refine ⟨by decide, by decide, by decide, by decide, by decide, by decide +kernel⟩

/-- `UnwrittenBytesAreOrdinaryBytes`, where the bytes are free values: a full encryption of an unwritten block under an
unwritten key ends as one of written ones does (93 U8). -/
theorem test_witness_unwritten : unwritten.Wf ∧ unwritten.inp.vals.read 0 = none ∧ unwritten.inp.keys.read 15 = none ∧
    ∃ t, step unwritten = .next t ∧
      decide (t.err = .ok ∧ t.out.rows = 1 ∧ tagVal t.blockRound = 15 ∧ t.out.elems.count = 16) = true := by
  refine ⟨?_, by decide +kernel, by decide +kernel, exists_of_nextOf (by decide +kernel)⟩
  constructor <;>
    simp [unwritten, State.writeVlen, State.writeKlen, State.writeCmd, State.reset, OutBuf.empty, Elems.width,
      Elems.count, Inputs.afterReset, chosenConfig, Memory.wf]

/-- The clauses of `OutAfterAStep`: an error, `RESET`, a capture, from sound states. -/
theorem test_witness_out : (∀ w, (one.writeCmd w).Wf) ∧
    (∃ t, step (one.writeCmd 0x2000) = .next t ∧ decide (t.err ≠ .ok) = true) ∧
    (∃ t, step (one.writeCmd 0x0000) = .next t ∧ decide (t.err = .ok) = true) ∧
    ∃ t, step (one.writeCmd 0x105C) = .next t ∧ decide (t.err = .ok) = true :=
  ⟨fresh_wf, exists_of_nextOf (by decide +kernel), exists_of_nextOf (by decide +kernel),
    exists_of_nextOf (by decide +kernel)⟩

/-- `PositionAfterACommand`: a step that advances the position and one that does not, at both ends of the rounds. -/
theorem test_witness_position :
    (∃ t, exec (Instr.ofStep .f false ((0 : Round).val + 1)) one = .next t ∧ decide (t.err = .ok) = true) ∧
    ∃ t, exec (Instr.ofStep .rkey true ((15 : Round).val + 1)) one = .next t ∧ decide (t.err = .ok) = true :=
  ⟨exists_of_nextOf (by decide +kernel), exists_of_nextOf (by decide +kernel)⟩

end Sys2Proof.Tests
end

section
/-! PROOFS. The family of 00_scope.md R8, a command runs to completion: no step is a refusal (O10), and in a coherent
state every word completes (O50). The lemmas before them say once what a step can do and what an accepted `EXECUTE`
leaves. -/

namespace Sys2Proof.Machine

/-! ### The loads from a buffer that is long enough (R44, R90). -/

theorem readByte_of_lt {inp : Inputs} {sp : Space} {a : Nat} (h : a < inp.len sp) :
    inp.readByte sp a = .ok (inp.byteAt sp a) := by
  rcases inp.readByte_eq sp a with ⟨-, hb⟩ | ⟨hle, -⟩
  · exact hb
  · omega

theorem readWord_of_le {inp : Inputs} {sp : Space} {a : Nat} (h : a + 4 ≤ inp.len sp) :
    inp.readWord sp a = .ok (be32 (inp.byteAt sp a) (inp.byteAt sp (a + 1)) (inp.byteAt sp (a + 2))
      (inp.byteAt sp (a + 3))) := by
  simp only [Inputs.readWord, readByte_of_lt (show a < inp.len sp by omega),
    readByte_of_lt (show a + 1 < inp.len sp by omega), readByte_of_lt (show a + 2 < inp.len sp by omega),
    readByte_of_lt (show a + 3 < inp.len sp by omega), ok_bind]

theorem readItem_exists_ok {inp : Inputs} {sp : Space} {i : Nat} (h : 16 * i + 16 ≤ inp.len sp) :
    ∃ q, inp.readItem sp i = .ok q := by
  simp only [Inputs.readItem, readWord_of_le (show 16 * i + 4 ≤ inp.len sp by omega),
    readWord_of_le (show 16 * i + 4 + 4 ≤ inp.len sp by omega),
    readWord_of_le (show 16 * i + 8 + 4 ≤ inp.len sp by omega),
    readWord_of_le (show 16 * i + 12 + 4 ≤ inp.len sp by omega), ok_bind]
  exact ⟨_, rfl⟩

/-- The load of all whole items of a buffer ends well, whatever the host has written there (R90, 93 U8). -/
theorem load_exists_ok (inp : Inputs) (sp : Space) : ∃ qs, inp.load sp (itemCount (inp.len sp)) = .ok qs := by
  refine forEach_exists_ok fun i hi => readItem_exists_ok ?_
  have hlt : i < inp.len sp / 16 := List.mem_range.mp hi
  omega

/-! ### The commands, seen by their step identifier (R64). -/

/-- The own part of a step variant, by its identifier (R136 to R143). -/
def cutOf : StepId → Round → State → Except Fault State
  | .rkey => cutRkey
  | .right => cutRight
  | .ark => cutArk
  | .gda => cutGda
  | .gc => cutGc
  | .gdb => cutGdb
  | .f => cutF
  | .out => cutOut

theorem exec_ofStep (st : StepId) (dec : Bool) (rnd : Nat) (s : State) :
    exec (Instr.ofStep st dec rnd) s = runExecute dec rnd (cutOf st) s := by
  cases st <;> rfl

theorem instr_eq_reset_or_ofStep (i : Instr) : i = .reset ∨ ∃ st dec rnd, i = Instr.ofStep st dec rnd := by
  cases i with
  | reset => exact .inl rfl
  | rkey dec rnd => exact .inr ⟨.rkey, dec, rnd, rfl⟩
  | right dec rnd => exact .inr ⟨.right, dec, rnd, rfl⟩
  | ark dec rnd => exact .inr ⟨.ark, dec, rnd, rfl⟩
  | gda dec rnd => exact .inr ⟨.gda, dec, rnd, rfl⟩
  | gc dec rnd => exact .inr ⟨.gc, dec, rnd, rfl⟩
  | gdb dec rnd => exact .inr ⟨.gdb, dec, rnd, rfl⟩
  | f dec rnd => exact .inr ⟨.f, dec, rnd, rfl⟩
  | out dec rnd => exact .inr ⟨.out, dec, rnd, rfl⟩

/-! ### What a step can do. -/

/-- All that an `EXECUTE` with an unknown step identifier can do (R69, R131). -/
theorem runUnknownStep_cases (dec : Bool) (s : State) :
    ((s.dir = none ∨ s.dir = some (Direction.ofDec dec)) ∧
        runUnknownStep dec s = .next (State.raise .inputShape { s with dir := some (Direction.ofDec dec) })) ∨
      ∃ d, s.dir = some d ∧ d ≠ Direction.ofDec dec ∧
        runUnknownStep dec s = .next (s.raise .directionSwitch) := by
  rcases dirStep_cases dec s with ⟨hd, he⟩ | ⟨d, hd, hne, he⟩
  · exact .inl ⟨hd, by simp only [runUnknownStep, he]⟩
  · exact .inr ⟨d, hd, hne, by simp only [runUnknownStep, he]⟩

/-- All that a step can do: `RESET`, an `EXECUTE` of one of the eight variants, an `EXECUTE` with an unknown step
identifier, or a reserved word (R62, R69). -/
theorem step_cases (s : State) :
    (decode s.inp.cmd = .instr .reset ∧ step s = .next { s.engineReset with err := .ok }) ∨
      (∃ st dec rnd, decode s.inp.cmd = .instr (Instr.ofStep st dec rnd) ∧
        step s = runExecute dec rnd (cutOf st) s) ∨
      (∃ dec rnd n, decode s.inp.cmd = .unknownStep dec rnd n ∧ step s = runUnknownStep dec s) ∨
      (∃ why, decode s.inp.cmd = .reserved why ∧ step s = .next (s.raise .inputShape)) := by
  cases hw : decode s.inp.cmd with
  | instr i =>
    have hstep : step s = exec i s := by simp only [step, State.fetch, hw]
    rcases instr_eq_reset_or_ofStep i with rfl | ⟨st, dec, rnd, rfl⟩
    · exact .inl ⟨rfl, hstep⟩
    · exact .inr (.inl ⟨st, dec, rnd, rfl, by rw [hstep, exec_ofStep]⟩)
  | unknownStep dec rnd n =>
    exact .inr (.inr (.inl ⟨dec, rnd, n, rfl, by simp only [step, State.fetch, hw]⟩))
  | reserved why =>
    exact .inr (.inr (.inr ⟨why, rfl, by simp only [step, State.fetch, hw, runReserved]⟩))

theorem runUnknownStep_exists_next (dec : Bool) (s : State) : ∃ t, runUnknownStep dec s = .next t := by
  rcases runUnknownStep_cases dec s with ⟨-, h⟩ | ⟨_, -, -, h⟩ <;> exact ⟨_, h⟩

/-! ### No refusal. -/

theorem settle_ne_refused (x : Except Fault State) (r : Refusal) : settle x ≠ .refused r := by
  cases x <;> simp

theorem runExecute_ne_refused (dec : Bool) (rnd : Nat) (cut : Round → State → Except Fault State) (s : State)
    (r : Refusal) : runExecute dec rnd cut s ≠ .refused r := by
  rcases runExecute_cases dec rnd cut s with
    ⟨_, -, -, h⟩ | ⟨-, ⟨-, h⟩ | ⟨-, -, -, -, h⟩ | ⟨round, -, -, -, h⟩⟩
  · simp [h]
  · simp [h]
  · simp [h]
  · rw [h]
    exact settle_ne_refused _ r

/-- Settles O10: of the four courses of a step (`step_cases`) the errors and `RESET` answer a next state, and a body that
runs answers its state or its fault. -/
theorem noCommandIsRefused : Obligations.NoCommandIsRefused := by
  intro s r
  rcases step_cases s with ⟨-, h⟩ | ⟨st, dec, rnd, -, h⟩ | ⟨dec, -, -, -, h⟩ | ⟨-, -, h⟩
  · simp [h]
  · rw [h]
    exact runExecute_ne_refused dec rnd (cutOf st) s r
  · obtain ⟨t, ht⟩ := runUnknownStep_exists_next dec s
    simp [h, ht]
  · simp [h]

/-! ### Completion in a coherent state. -/

/-- The own part of every variant on the live state at the cut point: its capture of the stateless output, at the
position that the variant leaves (R136 to R143, R145). -/
theorem cutOf_ok (d : Direction) (blocks keys : List Quad) (round : Round) (s : State) (h : CountsOk blocks keys)
    (st : StepId) :
    cutOf st round (cutState d blocks keys round s) =
      .ok ((s.withLive d blocks keys (ksRound d round) (positionAfter round st)).capture
        (statelessOut d round st blocks keys)) := by
  cases st with
  | rkey => exact cutRkey_ok d blocks keys round s
  | right => exact cutRight_ok d blocks keys round s h
  | ark => exact cutArk_ok d blocks keys round s h
  | gda => exact cutGda_ok d blocks keys round s h
  | gc => exact cutGc_ok d blocks keys round s h
  | gdb => exact cutGdb_ok d blocks keys round s h
  | f => exact cutF_ok d blocks keys round s h
  | out => exact cutOut_ok d blocks keys round s h

/-- The body of an `EXECUTE` that passed its checks, from any coherent state (R130, R149). -/
theorem executeBody_ok {s : State} {d : Direction} {blocks keys : List Quad} (hco : s.Coherent)
    (hd : s.dir = some d) (hs : s.inp.shapeOk = true)
    (hv : s.inp.load .vals (itemCount s.inp.vlen) = .ok blocks)
    (hk : s.inp.load .keys (itemCount s.inp.klen) = .ok keys) (round : Round) (st : StepId) :
    (s.toCutPoint d round >>= cutOf st round) =
      .ok ((s.withLive d blocks keys (ksRound d round) (positionAfter round st)).capture
        (statelessOut d round st blocks keys)) := by
  have hc := counts_of_loads hs hv hk
  rw [toCutPoint_ok hco hd hc hv hk round, ok_bind, cutOf_ok d blocks keys round s hc st]

theorem runExecute_exists_next {s : State} (hco : s.Coherent) (st : StepId) (dec : Bool) (rnd : Nat) :
    ∃ t, runExecute dec rnd (cutOf st) s = .next t := by
  rcases runExecute_cases dec rnd (cutOf st) s with
    ⟨_, -, -, h⟩ | ⟨hd, ⟨-, h⟩ | ⟨-, -, -, -, h⟩ | ⟨round, -, hs, -, h⟩⟩
  · exact ⟨_, h⟩
  · exact ⟨_, h⟩
  · exact ⟨_, h⟩
  · obtain ⟨blocks, hv⟩ := load_exists_ok s.inp .vals
    obtain ⟨keys, hk⟩ := load_exists_ok s.inp .keys
    have hbody := executeBody_ok (coherent_freeze hco hd) rfl hs hv hk round st
    exact ⟨_, by rw [h, hbody, settle_ok]⟩

/-- Settles O50: the only course of a step that could fault is the body of an `EXECUTE` past its checks; there the loads
end well, and from a coherent state the body runs as the stateless definition says (`executeBody_ok`). -/
theorem everyWordCompletes : Obligations.EveryWordCompletes := by
  intro s hco
  rcases step_cases s with ⟨-, h⟩ | ⟨st, dec, rnd, -, h⟩ | ⟨dec, -, -, -, h⟩ | ⟨-, -, h⟩
  · exact ⟨_, h⟩
  · rw [h]
    exact runExecute_exists_next hco st dec rnd
  · rw [h]
    exact runUnknownStep_exists_next dec s
  · exact ⟨_, h⟩

end Sys2Proof.Machine
end

section
/-! PROOFS. The family of 10_state.md: what every step keeps. Soundness (O47, O49), coherence (O48), the one fault of a
sound state (O51), the inputs (O53), the direction (O54) and `OUT` (O55), with the write of a command word (O9), the
control fields (O7) and the state after reset (O18).

A step ends in one of three ways (`step_next_cases`): `RESET`, an error, or the body of an `EXECUTE`. The body runs on
states that are ready for a round (`State.Ready`): each part of it keeps them so, or faults for want of a subkey
(`EndsIn`). -/

namespace Sys2Proof.Machine

/-! ### Words: the fields of an `EXECUTE` (R61, R62, R64). -/

theorem ofStep_inj {st st' : StepId} {dec dec' : Bool} {rnd rnd' : Nat} :
    Instr.ofStep st dec rnd = Instr.ofStep st' dec' rnd' ↔ st = st' ∧ dec = dec' ∧ rnd = rnd' := by
  cases st <;> cases st' <;> simp [Instr.ofStep]

theorem ofStep_ne_reset (st : StepId) (dec : Bool) (rnd : Nat) : Instr.ofStep st dec rnd ≠ .reset := by
  cases st <;> simp [Instr.ofStep]

/-- The fields by which decoding tells the words apart (R61, R62, R69). -/
theorem decode_cases (w : CmdWord) :
    (∃ why, decode w = .reserved why) ∨ (w = 0 ∧ decode w = .instr .reset) ∨
      (opField w = 1 ∧
        ((∃ st, StepId.ofId? (stepField w) = some st ∧
            decode w = .instr (Instr.ofStep st (decField w) (rndField w))) ∨
          decode w = .unknownStep (decField w) (rndField w) (stepField w))) := by
  by_cases hz : zeroField w ≠ 0
  · exact .inl ⟨_, by rw [decode, if_pos hz]⟩
  · by_cases h0 : opField w = 0
    · by_cases hw : w = 0
      · exact .inr (.inl ⟨hw, by rw [decode, if_neg hz, if_pos h0, if_pos hw]⟩)
      · exact .inl ⟨_, by rw [decode, if_neg hz, if_pos h0, if_neg hw]⟩
    · by_cases h1 : opField w = 1
      · refine .inr (.inr ⟨h1, ?_⟩)
        rw [decode, if_neg hz, if_neg h0, if_pos h1]
        cases hs : StepId.ofId? (stepField w) with
        | some st => exact .inl ⟨st, rfl, rfl⟩
        | none => exact .inr rfl
      · exact .inl ⟨_, by rw [decode, if_neg hz, if_neg h0, if_neg h1]⟩

theorem eq_zero_of_decode_reset {w : CmdWord} (h : decode w = .instr .reset) : w = 0 := by
  rcases decode_cases w with ⟨_, h'⟩ | ⟨hw, -⟩ | ⟨-, ⟨st, -, h'⟩ | h'⟩
  · simp [h'] at h
  · exact hw
  · rw [h', Decoded.instr.injEq] at h
    exact absurd h (ofStep_ne_reset _ _ _)
  · simp [h'] at h

/-- The word is that of an `EXECUTE` in the direction of `dec`, of a known or an unknown step (R61). -/
def IsExecute (w : CmdWord) (dec : Bool) : Prop := opField w = 1 ∧ decField w = dec

theorem isExecute_of_decode {w : CmdWord} {st : StepId} {dec : Bool} {rnd : Nat}
    (h : decode w = .instr (Instr.ofStep st dec rnd)) : IsExecute w dec := by
  rcases decode_cases w with ⟨_, h'⟩ | ⟨-, h'⟩ | ⟨hop, ⟨st', -, h'⟩ | h'⟩
  · simp [h'] at h
  · rw [h', Decoded.instr.injEq] at h
    exact absurd h.symm (ofStep_ne_reset _ _ _)
  · rw [h', Decoded.instr.injEq] at h
    exact ⟨hop, (ofStep_inj.mp h).2.1⟩
  · simp [h'] at h

theorem isExecute_of_decode_unknown {w : CmdWord} {dec : Bool} {rnd n : Nat}
    (h : decode w = .unknownStep dec rnd n) : IsExecute w dec := by
  rcases decode_cases w with ⟨_, h'⟩ | ⟨-, h'⟩ | ⟨hop, ⟨st', -, h'⟩ | h'⟩
  · simp [h'] at h
  · simp [h'] at h
  · simp [h'] at h
  · rw [h', Decoded.unknownStep.injEq] at h
    exact ⟨hop, h.1⟩

/-- `op` as a number (R61, R63). -/
theorem opField_toNat (w : CmdWord) : (opField w).toNat = w.toNat / 4096 := by
  have := w.isLt
  simp only [opField, BitVec.extractLsb'_toNat, Nat.shiftRight_eq_div_pow]
  omega

/-- `dec` as a bit of the number (R61). -/
theorem decField_eq_true (w : CmdWord) : decField w = true ↔ w.toNat / 2048 % 2 = 1 := by
  simp [decField, BitVec.getLsbD, Nat.testBit_eq_decide_div_mod_eq]

/-! ### Words: a written command decodes to itself (O9). -/

theorem ofId?_id (st : StepId) : StepId.ofId? st.id = some st := by
  cases st <;> rfl

theorem encode_ofStep (st : StepId) (dec : Bool) (rnd : Nat) :
    encode (Instr.ofStep st dec rnd) = execWord st dec rnd := by
  cases st <;> rfl

/-- A command of the step variants is well-formed exactly when its round fits the field (R61). -/
theorem wellFormed_ofStep (st : StepId) (dec : Bool) (rnd : Nat) :
    (Instr.ofStep st dec rnd).wellFormed = true ↔ rnd < 32 := by
  cases st <;> simp [Instr.ofStep, Instr.wellFormed, rndFits]

/-- The five fields of the word of an `EXECUTE`, as the decoder reads them (R61). -/
theorem execWord_fields (st : StepId) (dec : Bool) (rnd : Nat) :
    zeroField (execWord st dec rnd) = 0 ∧ opField (execWord st dec rnd) = 1 ∧
      decField (execWord st dec rnd) = dec ∧ rndField (execWord st dec rnd) = rnd % 32 ∧
      stepField (execWord st dec rnd) = st.id := by
  have hx : (BitVec.ofNat 5 rnd).toNat = rnd % 32 := by simp
  rw [← hx]
  simp only [execWord]
  generalize BitVec.ofNat 5 rnd = x
  revert x
  cases st <;> cases dec <;> decide

/-- Decoding the word of a well-formed command gives the command back (R61, R62, R64). -/
theorem decode_encode {i : Instr} (h : i.wellFormed = true) : decode (encode i) = .instr i := by
  rcases instr_eq_reset_or_ofStep i with rfl | ⟨st, dec, rnd, rfl⟩
  · rfl
  · rw [wellFormed_ofStep] at h
    obtain ⟨hz, hop, hdec, hrnd, hst⟩ := execWord_fields st dec rnd
    rw [encode_ofStep, decode, if_neg (by simp [hz]), if_neg (by simp [hop]), if_pos hop, hst, ofId?_id, hdec, hrnd,
      Nat.mod_eq_of_lt h]

/-- Settles O9: the word decodes to its command (`decode_encode`), and the 16 bits of a word are its number. -/
theorem writtenCommandRuns : Obligations.WrittenCommandRuns := by
  intro s i hi
  constructor
  · simp only [step, State.fetch, State.writeCmd_inp, decode_encode hi]
  · have hw : tableWord 16 (encode i).toNat = encode i := by
      rw [tableWord, Nat.mod_eq_of_lt (encode i).isLt, BitVec.ofNat_toNat, BitVec.setWidth_eq]
    rw [State.withFetchWord, hw, State.writeCmd]

/-! ### The control fields (O7). -/

theorem tagField_none : tagField none = 0b11111#5 := by decide

theorem tagField_some (r : Round) : tagField (some r) = BitVec.ofNat 5 r.val := by
  simp [tagField, tagVal]

/-- A tag field is the two's complement of its tag, and a tag that is not −1 leaves the sign bit clear (R15, R16). -/
theorem tagField_toInt (t : Option Round) :
    (tagField t).toInt = tagVal t ∧ ((tagField t).toNat < 16 ∨ tagField t = 0b11111#5) := by
  cases t with
  | none => exact ⟨by decide, .inr tagField_none⟩
  | some r =>
    rw [tagField_some]
    revert r
    decide

/-- Settles O7: the tags by `tagField_toInt`, the direction and the error code value by value. -/
theorem controlFieldEncodings : Obligations.ControlFieldEncodings := by
  refine ⟨tagField_none, tagField_some, tagField_toInt, rfl, rfl, rfl, fun d => ?_, rfl, rfl, rfl, rfl, fun e => ?_⟩
  · rcases d with _ | _ | _ <;> decide
  · cases e <;> decide

/-! ### What a step that answers a state can have done. -/

/-- The direction after a step: the frozen one, or that of the `EXECUTE` in `CMD` where none was frozen (R19, R131). -/
def State.DirAfter (s : State) (d : Option Direction) : Prop :=
  d = s.dir ∨ (s.dir = none ∧ ∃ dec, IsExecute s.inp.cmd dec ∧ d = some (Direction.ofDec dec))

theorem dirAfter_of_free {s : State} {dec : Bool} (hw : IsExecute s.inp.cmd dec)
    (hd : s.dir = none ∨ s.dir = some (Direction.ofDec dec)) : s.DirAfter (some (Direction.ofDec dec)) := by
  rcases hd with hd | hd
  · exact .inr ⟨hd, dec, hw, rfl⟩
  · exact .inl hd.symm

/-- The body of an `EXECUTE` that passed its checks: the direction frozen, the common part, the variant's own part
(R130). -/
def State.executeBody (s : State) (st : StepId) (dec : Bool) (round : Round) : Except Fault State :=
  State.toCutPoint (Direction.ofDec dec) round { s with dir := some (Direction.ofDec dec) } >>= cutOf st round

/-- The three ways in which a step ends: `RESET`, an error, or the body of an `EXECUTE` that passed its checks; the body
alone can fault (R130, R144, R168). -/
theorem step_outcome (s : State) :
    (decode s.inp.cmd = .instr .reset ∧ step s = .next { s.engineReset with err := .ok }) ∨
      (∃ e d, e ≠ .ok ∧ s.DirAfter d ∧ step s = .next (State.raise e { s with dir := d })) ∨
      (∃ st dec rnd round, decode s.inp.cmd = .instr (Instr.ofStep st dec rnd) ∧
        (s.dir = none ∨ s.dir = some (Direction.ofDec dec)) ∧ s.inp.shapeOk = true ∧
        itemCount s.inp.vlen ≤ s.cfg.nmax ∧ step s = settle (s.executeBody st dec round)) := by
  have hsame : s.DirAfter s.dir := .inl rfl
  rcases step_cases s with h | ⟨st, dec, rnd, hdec, h⟩ | ⟨dec, rnd, n, hdec, h⟩ | ⟨-, -, h⟩
  · exact .inl h
  · have hw := isExecute_of_decode hdec
    rw [h]
    rcases runExecute_cases dec rnd (cutOf st) s with
      ⟨_, -, -, h⟩ | ⟨hd, ⟨-, h⟩ | ⟨-, -, -, -, h⟩ | ⟨round, -, hs, hn, h⟩⟩
    · exact .inr (.inl ⟨_, _, by simp, hsame, h⟩)
    · exact .inr (.inl ⟨_, _, by simp, dirAfter_of_free hw hd, h⟩)
    · exact .inr (.inl ⟨_, _, by simp, dirAfter_of_free hw hd, h⟩)
    · exact .inr (.inr ⟨st, dec, rnd, round, hdec, hd, hs, hn, h⟩)
  · have hw := isExecute_of_decode_unknown hdec
    rw [h]
    rcases runUnknownStep_cases dec s with ⟨hd, h⟩ | ⟨_, -, -, h⟩
    · exact .inr (.inl ⟨_, _, by simp, dirAfter_of_free hw hd, h⟩)
    · exact .inr (.inl ⟨_, _, by simp, hsame, h⟩)
  · exact .inr (.inl ⟨_, _, by simp, hsame, h⟩)

/-- `step_outcome` of a step that answers a state. -/
theorem step_next_cases {s t : State} (h : step s = .next t) :
    (decode s.inp.cmd = .instr .reset ∧ t = { s.engineReset with err := .ok }) ∨
      (∃ e d, e ≠ .ok ∧ s.DirAfter d ∧ t = State.raise e { s with dir := d }) ∨
      (∃ st dec rnd round, decode s.inp.cmd = .instr (Instr.ofStep st dec rnd) ∧
        (s.dir = none ∨ s.dir = some (Direction.ofDec dec)) ∧ s.inp.shapeOk = true ∧
        itemCount s.inp.vlen ≤ s.cfg.nmax ∧ s.executeBody st dec round = .ok t) := by
  rcases step_outcome s with ⟨hdec, h'⟩ | ⟨e, d, he, hd, h'⟩ | ⟨st, dec, rnd, round, hdec, hd, hs, hn, h'⟩
  · rw [h', Host.Outcome.next.injEq] at h
    exact .inl ⟨hdec, h.symm⟩
  · rw [h', Host.Outcome.next.injEq] at h
    exact .inr (.inl ⟨e, d, he, hd, h.symm⟩)
  · rw [h', settle_eq_next] at h
    exact .inr (.inr ⟨st, dec, rnd, round, hdec, hd, hs, hn, h⟩)

/-! ### What no part of a command writes (O53, O54). -/

/-- The inputs, the parameters and the direction of `t` are those of `s`. -/
def State.SameSetting (s t : State) : Prop := t.inp = s.inp ∧ t.cfg = s.cfg ∧ t.dir = s.dir

theorem sameSetting_refl (s : State) : s.SameSetting s := ⟨rfl, rfl, rfl⟩

theorem sameSetting_trans {s t u : State} (h : s.SameSetting t) (h' : t.SameSetting u) : s.SameSetting u := by
  obtain ⟨hi, hc, hd⟩ := h
  obtain ⟨hi', hc', hd'⟩ := h'
  exact ⟨hi'.trans hi, hc'.trans hc, hd'.trans hd⟩

theorem blockLoad_setting {s t : State} (h : s.blockLoad = .ok t) : s.SameSetting t := by
  simp only [State.blockLoad, bind_eq_ok, Except.ok.injEq] at h
  obtain ⟨qs, -, rfl⟩ := h
  exact ⟨rfl, rfl, rfl⟩

theorem keyLoad_setting {s t : State} (h : s.keyLoad = .ok t) : s.SameSetting t := by
  simp only [State.keyLoad, bind_eq_ok, Except.ok.injEq] at h
  obtain ⟨qs, -, rfl⟩ := h
  exact ⟨rfl, rfl, rfl⟩

/-- A rewind is a key load: the flag and the tag that it clears first are those that the load writes (R92, R96). -/
theorem keyRewind_eq_keyLoad (s : State) : s.keyRewind = s.keyLoad := rfl

theorem keyStep_setting {s t : State} {r : Round} (h : s.keyStep r = .ok t) : s.SameSetting t := by
  simp only [State.keyStep, bind_eq_ok, Except.ok.injEq] at h
  obtain ⟨n, -, ks, -, rfl⟩ := h
  exact ⟨rfl, rfl, rfl⟩

theorem keySteps_setting {rs : List Round} {s t : State} (h : s.keySteps rs = .ok t) : s.SameSetting t := by
  induction rs generalizing s with
  | nil =>
    obtain rfl := Except.ok.inj h
    exact sameSetting_refl s
  | cons r rs ih =>
    obtain ⟨s', hs', ht⟩ := bind_eq_ok.mp h
    exact sameSetting_trans (keyStep_setting hs') (ih ht)

/-- All that `KeyAdvanceTo(kr)` can do: nothing, a key load and the steps from there, or the steps alone (R95, R96). -/
theorem keyAdvanceTo_cases (kr : Round) (s : State) :
    (s.keyRound = some kr ∧ s.keyAdvanceTo kr = .ok s) ∨
      s.keyAdvanceTo kr = (s.keyLoad >>= fun s' => s'.keySteps (roundsAfter s'.keyRound kr)) ∨
      s.keyAdvanceTo kr = s.keySteps (roundsAfter s.keyRound kr) := by
  by_cases heq : s.keyRound = some kr
  · exact .inl ⟨heq, by rw [State.keyAdvanceTo, if_pos heq]⟩
  · by_cases hlt : (kr.val : Int) < tagVal s.keyRound
    · exact .inr (.inl (by rw [State.keyAdvanceTo, if_neg heq, if_pos hlt, keyRewind_eq_keyLoad]))
    · exact .inr (.inr (by rw [State.keyAdvanceTo, if_neg heq, if_neg hlt, ok_bind]))

theorem keyAdvanceTo_setting {kr : Round} {s t : State} (h : s.keyAdvanceTo kr = .ok t) : s.SameSetting t := by
  rcases keyAdvanceTo_cases kr s with ⟨-, h'⟩ | h' | h' <;> rw [h'] at h
  · obtain rfl := Except.ok.inj h
    exact sameSetting_refl s
  · obtain ⟨s', hload, hsteps⟩ := bind_eq_ok.mp h
    exact sameSetting_trans (keyLoad_setting hload) (keySteps_setting hsteps)
  · exact keySteps_setting h

theorem roundFull_setting {r : Round} {s t : State} (h : s.roundFull r = .ok t) : s.SameSetting t := by
  simp only [State.roundFull, bind_eq_ok, Except.ok.injEq] at h
  obtain ⟨xs, -, rfl⟩ := h
  exact ⟨rfl, rfl, rfl⟩

theorem fullRounds_setting {d : Direction} {rs : List Round} {s t : State} (h : s.fullRounds d rs = .ok t) :
    s.SameSetting t := by
  induction rs generalizing s with
  | nil =>
    obtain rfl := Except.ok.inj h
    exact sameSetting_refl s
  | cons r rs ih =>
    obtain ⟨s', hs', ht⟩ := bind_eq_ok.mp h
    obtain ⟨s'', hkey, hround⟩ := bind_eq_ok.mp hs'
    exact sameSetting_trans (sameSetting_trans (keyAdvanceTo_setting hkey) (roundFull_setting hround)) (ih ht)

theorem ensureBlocks_setting {s t : State} (h : s.ensureBlocks = .ok t) : s.SameSetting t := by
  rw [State.ensureBlocks] at h
  split at h
  · obtain rfl := Except.ok.inj h
    exact sameSetting_refl s
  · exact blockLoad_setting h

theorem ensureKeys_setting {s t : State} (h : s.ensureKeys = .ok t) : s.SameSetting t := by
  rw [State.ensureKeys] at h
  split at h
  · obtain rfl := Except.ok.inj h
    exact sameSetting_refl s
  · exact keyLoad_setting h

/-- All that the rewind test can do (R133, R186). -/
theorem rewindTest_cases (round : Round) (s : State) :
    s.rewindTest round = s.engineReset ∨ s.rewindTest round = s := by
  rw [State.rewindTest]
  split
  · exact .inl rfl
  · exact .inr rfl

theorem rewindTest_setting (round : Round) (s : State) : s.SameSetting (s.rewindTest round) := by
  rcases rewindTest_cases round s with h | h <;> rw [h]
  · exact ⟨rfl, rfl, rfl⟩
  · exact sameSetting_refl s

theorem toCutPoint_setting {d : Direction} {round : Round} {s t : State} (h : s.toCutPoint d round = .ok t) :
    s.SameSetting t := by
  simp only [State.toCutPoint, State.prepare, bind_eq_ok] at h
  obtain ⟨s2, ⟨s1, h1, h2⟩, s3, h3, h4⟩ := h
  have hload := sameSetting_trans (sameSetting_trans (rewindTest_setting round s) (ensureBlocks_setting h1))
    (ensureKeys_setting h2)
  exact sameSetting_trans (sameSetting_trans hload (fullRounds_setting h3)) (keyAdvanceTo_setting h4)

/-- The own part of a variant writes neither inputs, parameters nor direction, and clears `ERR` (R145, R147). -/
theorem cutOf_setting {st : StepId} {round : Round} {s t : State} (h : cutOf st round s = .ok t) :
    s.SameSetting t ∧ t.err = .ok := by
  cases st with
  | out =>
    simp only [cutOf, cutOut, bind_eq_ok, Except.ok.injEq] at h
    obtain ⟨u, hround, _, -, _, -, rfl⟩ := h
    have hu : s.SameSetting u := roundFull_setting hround
    exact ⟨hu, rfl⟩
  | _ =>
    simp only [cutOf, cutRkey, cutRight, cutArk, cutGda, cutGc, cutGdb, cutF, bind_eq_ok, Except.ok.injEq] at h
    obtain ⟨_, -, _, -, rfl⟩ := h
    exact ⟨⟨rfl, rfl, rfl⟩, rfl⟩

/-- A body that ends leaves the inputs and the parameters, has its direction frozen, and no error (R131, R145, R147). -/
theorem executeBody_setting {st : StepId} {dec : Bool} {round : Round} {s t : State}
    (h : s.executeBody st dec round = .ok t) :
    t.inp = s.inp ∧ t.cfg = s.cfg ∧ t.dir = some (Direction.ofDec dec) ∧ t.err = .ok := by
  obtain ⟨p, hp, ht⟩ := bind_eq_ok.mp h
  obtain ⟨hcut, herr⟩ := cutOf_setting ht
  obtain ⟨hi, hc, hd⟩ := sameSetting_trans (toCutPoint_setting hp) hcut
  exact ⟨hi, hc, hd, herr⟩

/-- Settles O53: `RESET` and an error write neither inputs nor parameters, and no part of a body does
(`executeBody_setting`). -/
theorem stepLeavesTheInputs : Obligations.StepLeavesTheInputs := by
  intro s t h
  rcases step_next_cases h with ⟨-, rfl⟩ | ⟨e, d, -, -, rfl⟩ | ⟨st, dec, rnd, round, -, -, -, -, hbody⟩
  · exact ⟨rfl, rfl⟩
  · exact ⟨rfl, rfl⟩
  · obtain ⟨hi, hc, -, -⟩ := executeBody_setting hbody
    exact ⟨hi, hc⟩

/-- The direction that a step leaves (R19, R131). -/
theorem step_dirAfter {s t : State} (h : step s = .next t) : s.DirAfter t.dir := by
  rcases step_next_cases h with ⟨-, rfl⟩ | ⟨e, d, -, hd, rfl⟩ | ⟨st, dec, rnd, round, hdec, hfree, -, -, hbody⟩
  · exact .inl rfl
  · exact hd
  · obtain ⟨-, -, hd, -⟩ := executeBody_setting hbody
    rw [hd]
    exact dirAfter_of_free (isExecute_of_decode hdec) hfree

theorem ofDec_eq_decrypt (dec : Bool) : Direction.ofDec dec = .decrypt ↔ dec = true := by
  cases dec <;> simp [Direction.ofDec]

/-- Settles O54: the two ways of `State.DirAfter`, with the fields of an `EXECUTE` as numbers. -/
theorem directionIsFrozen : Obligations.DirectionIsFrozen := by
  intro s t h
  rcases step_dirAfter h with hd | ⟨hnone, dec, ⟨hop, hdec⟩, hd⟩
  · refine ⟨fun _ => hd, fun d hnone hsome => ?_⟩
    rw [hd, hnone] at hsome
    cases hsome
  · refine ⟨fun hsome => by simp [hnone] at hsome, fun d _ hsome => ?_⟩
    obtain rfl : Direction.ofDec dec = d := Option.some.inj (hd.symm.trans hsome)
    rw [ofDec_eq_decrypt, ← hdec, decField_eq_true, ← opField_toNat, hop]
    exact ⟨rfl, Iff.rfl⟩

/-! ### Coherence (O48). -/

theorem engineReset_coherent (u : State) : u.engineReset.Coherent := .inl rfl

/-- A body that ends in a coherent state leaves what the buffers hold, at the position of its variant (R145, R149). -/
theorem executeBody_live {st : StepId} {dec : Bool} {round : Round} {s t : State} (hco : s.Coherent)
    (hd : s.dir = none ∨ s.dir = some (Direction.ofDec dec)) (hs : s.inp.shapeOk = true)
    (hn : itemCount s.inp.vlen ≤ s.cfg.nmax) (h : s.executeBody st dec round = .ok t) : t.Live := by
  obtain ⟨blocks, hv⟩ := load_exists_ok s.inp .vals
  obtain ⟨keys, hk⟩ := load_exists_ok s.inp .keys
  rw [State.executeBody, executeBody_ok (coherent_freeze hco hd) rfl hs hv hk round st, Except.ok.injEq] at h
  subst h
  exact ⟨Direction.ofDec dec, blocks, keys, ksRound (Direction.ofDec dec) round, rfl, hs, hn, hv, hk, rfl⟩

/-- Settles O48: `RESET` and an error leave nothing loaded, and a body leaves the live state of the buffers
(`executeBody_live`). -/
theorem stepKeepsCoherence : Obligations.StepKeepsCoherence := by
  intro s t hco h
  rcases step_next_cases h with ⟨-, rfl⟩ | ⟨e, d, -, -, rfl⟩ | ⟨st, dec, rnd, round, -, hd, hs, hn, hbody⟩
  · exact engineReset_coherent { s with err := .ok }
  · exact engineReset_coherent { s with dir := d, err := e, out := OutBuf.empty }
  · exact .inr (executeBody_live hco hd hs hn hbody)

/-! ### Sound states: what each write of the state keeps (R12, R18). -/

/-- The descriptor of the buffer describes its elements (R25, R47). -/
def OutBuf.Described (o : OutBuf) : Prop := o.ew = o.elems.width ∧ o.rows * o.cols = o.elems.count

/-- Both input spaces are in canonical form. -/
def Inputs.Canonical (inp : Inputs) : Prop := inp.vals.wf ∧ inp.keys.wf

theorem empty_described : OutBuf.empty.Described := ⟨rfl, rfl⟩

theorem column64_described {n : Nat} {xs : List W64} (h : xs.length = n) : (OutBuf.column64 n xs).Described :=
  ⟨rfl, by simp [OutBuf.column64, Elems.count, h]⟩

theorem column32_described {n : Nat} {xs : List Word} (h : xs.length = n) : (OutBuf.column32 n xs).Described :=
  ⟨rfl, by simp [OutBuf.column32, Elems.count, h]⟩

theorem flatMap_bytes_length (qs : List Quad) : (qs.flatMap Quad.bytes).length = qs.length * 16 := by
  induction qs with
  | nil => rfl
  | cons q qs ih =>
    rw [List.flatMap_cons, List.length_append, ih, List.length_cons, Nat.succ_mul, Nat.add_comm]
    rfl

theorem bytes16_described {n : Nat} {qs : List Quad} (h : qs.length = n) : (OutBuf.bytes16 n qs).Described :=
  ⟨rfl, by simp only [OutBuf.bytes16, Elems.count, flatMap_bytes_length, h]⟩

theorem wf_described {s : State} (h : s.Wf) : s.out.Described := ⟨h.outWidth, h.outCount⟩

theorem wf_canonical {s : State} (h : s.Wf) : s.inp.Canonical := ⟨h.valsForm, h.keysForm⟩

/-- After an engine reset nothing is left to be unsound but `OUT`, the input spaces and the parameter (R186). -/
theorem engineReset_wf {u : State} (hout : u.out.Described) (hinp : u.inp.Canonical) (hcfg : u.cfg.legal) :
    u.engineReset.Wf where
  blkOff _ := ⟨rfl, rfl, rfl, rfl, rfl, rfl⟩
  blkOn h := by simp at h
  keyOff _ := ⟨rfl, rfl, rfl, rfl, rfl, rfl, rfl, rfl⟩
  keyOn h := by simp at h
  subkeys x h := by simp at h
  position h := by simp at h
  outWidth := hout.1
  outCount := hout.2
  valsForm := hinp.1
  keysForm := hinp.2
  config := hcfg

/-- The state after an error is sound, whatever the direction it leaves (R168). -/
theorem raise_wf {s : State} (h : s.Wf) (e : ErrCode) (d : Option Direction) :
    (State.raise e { s with dir := d }).Wf :=
  engineReset_wf (u := { s with dir := d, err := e, out := OutBuf.empty }) empty_described
    ⟨h.valsForm, h.keysForm⟩ h.config

theorem freeze_wf {s : State} (h : s.Wf) (d : Direction) : State.Wf { s with dir := some d } :=
  { h with position := fun hp => ⟨rfl, (h.position hp).2⟩ }

theorem setInputs_wf {s : State} (h : s.Wf) {inp : Inputs} (hinp : inp.Canonical) :
    State.Wf { s with inp := inp } :=
  { h with valsForm := hinp.1, keysForm := hinp.2 }

theorem capture_wf {s : State} (h : s.Wf) {o : OutBuf} (ho : o.Described) : (s.capture o).Wf :=
  { h with outWidth := ho.1, outCount := ho.2 }

/-- A block load (R91). -/
theorem setBlocks_loaded_wf {s : State} (h : s.Wf) (hoff : s.blkLoaded = false) {qs : List Quad} {n : Nat}
    (hlen : qs.length = n) (hn : n ≤ s.cfg.nmax) :
    State.Wf { s.setBlocks qs with nv := some n, blkLoaded := true } :=
  { h with
    blkOff := fun h' => by cases h'
    blkOn := fun _ => ⟨n, rfl, hn, by simp [hlen], by simp [hlen], by simp [hlen], by simp [hlen]⟩
    position := fun hp => by
      obtain ⟨-, hon, -⟩ := h.position hp
      rw [hoff] at hon
      cases hon }

/-- A key load (R92). -/
theorem setKeys_loaded_wf {s : State} (h : s.Wf) {qs : List Quad} {n : Nat} (hlen : qs.length = n) :
    State.Wf { (s.setKeys qs).allocSubkeys n with nk := some n, keyRound := none, keyLoaded := true } :=
  { h with
    keyOff := fun h' => by cases h'
    keyOn := fun _ => ⟨n, rfl, by simp [hlen], by simp [hlen], by simp [hlen], by simp [hlen], by simp, by simp⟩
    subkeys := fun x hx => by
      obtain rfl : x = none := hx.elim List.eq_of_mem_replicate List.eq_of_mem_replicate
      rfl
    position := fun hp => ⟨(h.position hp).1, (h.position hp).2.1, rfl⟩ }

/-! ### States that are ready for a round. -/

/-- Between the loads and the end of a command: sound, a direction frozen, both columns loaded (R133). -/
structure State.Ready (s : State) : Prop where
  wf : s.Wf
  dir : s.dir.isSome = true
  blk : s.blkLoaded = true
  key : s.keyLoaded = true

theorem ready_nv {s : State} (h : s.Ready) : ∃ n, s.nv = some n := by
  obtain ⟨n, hn, -⟩ := h.wf.blkOn h.blk
  exact ⟨n, hn⟩

theorem ready_nk {s : State} (h : s.Ready) : ∃ n, s.nk = some n := by
  obtain ⟨n, hn, -⟩ := h.wf.keyOn h.key
  exact ⟨n, hn⟩

/-- A key step over all keys (R97 to R103). -/
theorem keyStepped_ready {s : State} (h : s.Ready) (r : Round) {qs : List Quad} {ps : List (Word × Word)}
    (hq : s.nk = some qs.length) (hp : ps.length = qs.length) :
    State.Ready { (s.setKeys qs).setSubkeys ps with keyRound := some r } where
  wf := { h.wf with
    keyOff := fun h' => by
      have hon : s.keyLoaded = false := h'
      rw [h.key] at hon
      cases hon
    keyOn := fun _ => ⟨qs.length, hq, by simp, by simp, by simp, by simp, by simp [hp], by simp [hp]⟩
    subkeys := fun x hx => by
      have hsome : x.isSome = true := by
        rcases hx with hx | hx <;> obtain ⟨p, -, rfl⟩ := List.mem_map.mp hx <;> rfl
      simp [hsome] }
  dir := h.dir
  blk := h.blk
  key := h.key

/-- New blocks in all columns and a new position (R121, R122, R145). -/
theorem roundDone_ready {s : State} (h : s.Ready) (r : Round) {qs : List Quad} (hq : s.nv = some qs.length) :
    State.Ready { s.setBlocks qs with blockRound := some r } where
  wf := { h.wf with
    blkOff := fun h' => by
      have hon : s.blkLoaded = false := h'
      rw [h.blk] at hon
      cases hon
    blkOn := fun _ => by
      obtain ⟨n, hn, hle, -⟩ := h.wf.blkOn h.blk
      obtain rfl : n = qs.length := Option.some.inj (hn.symm.trans hq)
      exact ⟨qs.length, hq, hle, by simp, by simp, by simp, by simp⟩
    position := fun _ => ⟨h.dir, h.blk, h.key⟩ }
  dir := h.dir
  blk := h.blk
  key := h.key

/-! ### Parts of a command that end well or lack a subkey (R12, R44). -/

/-- The computation ends in a value that satisfies `P`, or faults for want of a subkey. -/
def EndsIn {α : Type} (P : α → Prop) : Except Fault α → Prop
  | .ok a => P a
  | .error e => e = .noSubkey

section
variable {α β : Type} {P : α → Prop} {Q : β → Prop}

theorem endsIn_of_ok {x : Except Fault α} {a : α} (hx : x = .ok a) (ha : P a) : EndsIn P x := by
  rw [hx]
  exact ha

theorem endsIn_bind {x : Except Fault α} {f : α → Except Fault β} (hx : EndsIn P x) (hf : ∀ a, P a → EndsIn Q (f a)) :
    EndsIn Q (x >>= f) := by
  cases x with
  | ok a => exact hf a hx
  | error e => exact hx

/-- A loop over parts that end well or lack a subkey is such a part, with one result for each index. -/
theorem endsIn_forEach {f : α → Except Fault β} {is : List α} (h : ∀ i ∈ is, EndsIn (fun _ => True) (f i)) :
    EndsIn (fun xs => xs.length = is.length) (forEach f is) := by
  induction is with
  | nil => exact rfl
  | cons i is ih =>
    refine endsIn_bind (h i (by simp)) fun x _ => endsIn_bind (ih fun j hj => h j (by simp [hj])) fun xs hxs => ?_
    exact congrArg Nat.succ hxs

end

/-! ### The reads of a ready state (R12). -/

theorem readBlock_endsIn {s : State} (h : s.Ready) {n i : Nat} (hn : s.nv = some n) (hi : i < n) :
    EndsIn (fun _ => True) (s.readBlock i) := by
  obtain ⟨m, hm, -, h1, h2, h3, h4⟩ := h.wf.blkOn h.blk
  obtain rfl : n = m := Option.some.inj (hn.symm.trans hm)
  rw [State.readBlock, if_pos h.blk, List.getElem?_eq_getElem (by omega), List.getElem?_eq_getElem (by omega),
    List.getElem?_eq_getElem (by omega), List.getElem?_eq_getElem (by omega)]
  trivial

theorem readKey_endsIn {s : State} (h : s.Ready) {n i : Nat} (hn : s.nk = some n) (hi : i < n) :
    EndsIn (fun _ => True) (s.readKey i) := by
  obtain ⟨m, hm, h1, h2, h3, h4, -⟩ := h.wf.keyOn h.key
  obtain rfl : n = m := Option.some.inj (hn.symm.trans hm)
  rw [State.readKey, if_pos h.key, List.getElem?_eq_getElem (by omega), List.getElem?_eq_getElem (by omega),
    List.getElem?_eq_getElem (by omega), List.getElem?_eq_getElem (by omega)]
  trivial

/-- The read that can fault: a subkey may be missing (log 8). -/
theorem readSubkeys_endsIn (s : State) (i : Nat) : EndsIn (fun _ => True) (s.readSubkeys i) := by
  rw [State.readSubkeys]
  split
  · split
    · trivial
    · exact rfl
  · exact rfl

theorem readNv_eq {s : State} {n : Nat} (h : s.nv = some n) : s.readNv = .ok n := by
  simp only [State.readNv, h]

theorem readNk_eq {s : State} {n : Nat} (h : s.nk = some n) : s.readNk = .ok n := by
  simp only [State.readNk, h]

theorem readNamed_endsIn {s : State} (h : s.Ready) (r : Round) {n i : Nat} (hn : s.nv = some n) (hi : i < n) :
    EndsIn (fun _ => True) (s.readNamed r i) :=
  endsIn_bind (readBlock_endsIn h hn hi) fun _ _ => trivial

theorem forEach_range_endsIn {β : Type} {f : Nat → Except Fault β} {n : Nat}
    (h : ∀ i, i < n → EndsIn (fun _ => True) (f i)) :
    EndsIn (fun xs => xs.length = n) (forEach f (List.range n)) := by
  have hloop := endsIn_forEach (f := f) (is := List.range n) fun i hi => h i (List.mem_range.mp hi)
  rwa [List.length_range] at hloop

/-- Steps 1 to 9 for every block: as many results as blocks, unless a subkey is missing (R112 to R120). -/
theorem allSteps_endsIn {s : State} (h : s.Ready) (r : Round) {n : Nat} (hn : s.nv = some n) :
    EndsIn (fun xs => xs.length = n) (s.allSteps r) := by
  obtain ⟨nk, hnk⟩ := ready_nk h
  rw [State.allSteps, readNv_eq hn, ok_bind]
  refine forEach_range_endsIn fun i hi => ?_
  rw [State.blockSteps, readNv_eq hn, ok_bind, readNk_eq hnk, ok_bind]
  exact endsIn_bind (readNamed_endsIn h r hn hi) fun a _ =>
    endsIn_bind (readSubkeys_endsIn s _) fun k _ => trivial

/-! ### The parts of a body keep states ready (R133 to R145). -/

theorem keyLoad_ready {s : State} (h : s.Wf) (hd : s.dir.isSome = true) (hb : s.blkLoaded = true) :
    EndsIn State.Ready s.keyLoad := by
  obtain ⟨qs, hqs⟩ := load_exists_ok s.inp .keys
  have hload : s.inp.load .keys (itemCount s.inp.klen) = .ok qs := hqs
  rw [State.keyLoad, hload, ok_bind]
  exact ⟨setKeys_loaded_wf h (load_length hload), hd, hb, rfl⟩

theorem keyStep_ready {s : State} (h : s.Ready) (r : Round) : EndsIn State.Ready (s.keyStep r) := by
  obtain ⟨n, hn⟩ := ready_nk h
  rw [State.keyStep, readNk_eq hn, ok_bind]
  refine endsIn_bind (forEach_range_endsIn fun i hi => readKey_endsIn h hn hi) fun ks hks => ?_
  exact keyStepped_ready h r (by simp [hn, hks]) (by simp)

theorem keySteps_ready (rs : List Round) {s : State} (h : s.Ready) : EndsIn State.Ready (s.keySteps rs) := by
  induction rs generalizing s with
  | nil => exact h
  | cons r rs ih => exact endsIn_bind (keyStep_ready h r) fun s' h' => ih h'

theorem keyAdvanceTo_ready {s : State} (h : s.Ready) (kr : Round) : EndsIn State.Ready (s.keyAdvanceTo kr) := by
  rcases keyAdvanceTo_cases kr s with ⟨-, h'⟩ | h' | h' <;> rw [h']
  · exact h
  · exact endsIn_bind (keyLoad_ready h.wf h.dir h.blk) fun s' hs' => keySteps_ready _ hs'
  · exact keySteps_ready _ h

/-- Steps 10 and 11 for every block, and the position (R121, R122, R145). -/
theorem applyAll_ready {s : State} (h : s.Ready) (r : Round) {xs : List (Quad × Temps)} (hn : s.nv = some xs.length) :
    State.Ready { s.applyAll r xs with blockRound := some r } :=
  roundDone_ready h r (by simpa using hn)

theorem roundFull_ready {s : State} (h : s.Ready) (r : Round) : EndsIn State.Ready (s.roundFull r) := by
  obtain ⟨n, hn⟩ := ready_nv h
  exact endsIn_bind (allSteps_endsIn h r hn) fun xs hxs => applyAll_ready h r (by rw [hn, hxs])

theorem fullRounds_ready (d : Direction) (rs : List Round) {s : State} (h : s.Ready) :
    EndsIn State.Ready (s.fullRounds d rs) := by
  induction rs generalizing s with
  | nil => exact h
  | cons r rs ih =>
    refine endsIn_bind ?_ fun s' h' => ih h'
    exact endsIn_bind (keyAdvanceTo_ready h (ksRound d r)) fun s' h' => roundFull_ready h' r

theorem rewindTest_wf {s : State} (h : s.Wf) (round : Round) : (s.rewindTest round).Wf := by
  rcases rewindTest_cases round s with h' | h' <;> rw [h']
  · exact engineReset_wf (wf_described h) (wf_canonical h) h.config
  · exact h

/-- The block columns are loaded already, or loaded from a buffer that passed the capacity check (R91, R132). -/
theorem ensureBlocks_wf {s : State} (h : s.Wf) (hd : s.dir.isSome = true) (hn : itemCount s.inp.vlen ≤ s.cfg.nmax) :
    EndsIn (fun t => t.Wf ∧ t.dir.isSome = true ∧ t.blkLoaded = true) s.ensureBlocks := by
  cases hb : s.blkLoaded with
  | true =>
    rw [State.ensureBlocks, if_pos hb]
    exact ⟨h, hd, hb⟩
  | false =>
    obtain ⟨qs, hqs⟩ := load_exists_ok s.inp .vals
    have hload : s.inp.load .vals (itemCount s.inp.vlen) = .ok qs := hqs
    rw [State.ensureBlocks, hb, if_neg Bool.false_ne_true, State.blockLoad, hload, ok_bind]
    exact ⟨setBlocks_loaded_wf h hb (load_length hload) hn, hd, rfl⟩

theorem ensureKeys_ready {s : State} (h : s.Wf) (hd : s.dir.isSome = true) (hb : s.blkLoaded = true) :
    EndsIn State.Ready s.ensureKeys := by
  rw [State.ensureKeys]
  split
  next hk => exact ⟨h, hd, hb, hk⟩
  next => exact keyLoad_ready h hd hb

/-- The rewind test and the loads make a sound state with a frozen direction ready (R133). -/
theorem prepare_ready {s : State} (h : s.Wf) (hd : s.dir.isSome = true) (hn : itemCount s.inp.vlen ≤ s.cfg.nmax)
    (round : Round) : EndsIn State.Ready (s.prepare round) := by
  obtain ⟨hi, hc, hdir⟩ := rewindTest_setting round s
  refine endsIn_bind (ensureBlocks_wf (rewindTest_wf h round) (by rwa [hdir]) (by rwa [hi, hc])) ?_
  rintro s1 ⟨h1, hd1, hb1⟩
  exact ensureKeys_ready h1 hd1 hb1

theorem toCutPoint_ready {s : State} (h : s.Wf) (hs : s.dir.isSome = true) (hn : itemCount s.inp.vlen ≤ s.cfg.nmax)
    (d : Direction) (round : Round) : EndsIn State.Ready (s.toCutPoint d round) :=
  endsIn_bind (prepare_ready h hs hn round) fun _ h1 =>
    endsIn_bind (fullRounds_ready d _ h1) fun _ h2 => keyAdvanceTo_ready h2 _

/-! ### The captures (R47, R136 to R143). -/

/-- A sound state that holds the capture of the step: its descriptor, by the counts of the state (R47). -/
def State.Captured (st : StepId) (t : State) : Prop :=
  t.Wf ∧ ∃ nv nk, t.nv = some nv ∧ t.nk = some nk ∧ (t.out.rows, t.out.cols, t.out.ew) = captureShape nv nk st

theorem capture_captured {s : State} (h : s.Ready) {nv nk : Nat} (hv : s.nv = some nv) (hk : s.nk = some nk)
    {st : StepId} {o : OutBuf} (ho : o.Described) (hshape : (o.rows, o.cols, o.ew) = captureShape nv nk st) :
    (s.capture o).Captured st :=
  ⟨capture_wf h.wf ho, nv, nk, hv, hk, hshape⟩

/-- The own part of every variant, from a ready state, ends in a sound state with its capture, or lacks a subkey (R136
to R143). -/
theorem cutOf_captured {s : State} (h : s.Ready) (st : StepId) (round : Round) :
    EndsIn (State.Captured st) (cutOf st round s) := by
  obtain ⟨nv, hv⟩ := ready_nv h
  obtain ⟨nk, hk⟩ := ready_nk h
  have hsteps := allSteps_endsIn h round hv
  cases st with
  | rkey =>
    rw [cutOf, cutRkey, readNk_eq hk, ok_bind]
    exact endsIn_bind (forEach_range_endsIn fun i _ => readSubkeys_endsIn s i) fun ps hps =>
      capture_captured h hv hk (column64_described (by simp [hps])) rfl
  | right =>
    rw [cutOf, cutRight, readNv_eq hv, ok_bind]
    exact endsIn_bind (forEach_range_endsIn fun i hi => readNamed_endsIn h round hv hi) fun as has =>
      capture_captured h hv hk (column64_described (by simp [has])) rfl
  | ark =>
    rw [cutOf, cutArk, readNv_eq hv, ok_bind]
    exact endsIn_bind hsteps fun xs hxs => capture_captured h hv hk (column64_described (by simp [hxs])) rfl
  | gda =>
    rw [cutOf, cutGda, readNv_eq hv, ok_bind]
    exact endsIn_bind hsteps fun xs hxs => capture_captured h hv hk (column32_described (by simp [hxs])) rfl
  | gc =>
    rw [cutOf, cutGc, readNv_eq hv, ok_bind]
    exact endsIn_bind hsteps fun xs hxs => capture_captured h hv hk (column32_described (by simp [hxs])) rfl
  | gdb =>
    rw [cutOf, cutGdb, readNv_eq hv, ok_bind]
    exact endsIn_bind hsteps fun xs hxs => capture_captured h hv hk (column32_described (by simp [hxs])) rfl
  | f =>
    rw [cutOf, cutF, readNv_eq hv, ok_bind]
    exact endsIn_bind hsteps fun xs hxs =>
      capture_captured (applyAll_ready h round (by rw [hv, hxs])) hv hk (column64_described (by simp [hxs])) rfl
  | out =>
    rw [cutOf, cutOut]
    refine endsIn_bind (roundFull_ready h round) fun u hu => ?_
    obtain ⟨nv', hv'⟩ := ready_nv hu
    obtain ⟨nk', hk'⟩ := ready_nk hu
    rw [readNv_eq hv', ok_bind]
    exact endsIn_bind (forEach_range_endsIn fun i hi => readNamed_endsIn hu round hv' hi) fun as has =>
      capture_captured hu hv' hk' (bytes16_described has) rfl

/-- The body of an `EXECUTE` that a sound state accepts ends in a sound state with the capture of its step, or lacks a
subkey (R130, R12). -/
theorem executeBody_captured {s : State} (h : s.Wf) (hn : itemCount s.inp.vlen ≤ s.cfg.nmax) (st : StepId) (dec : Bool)
    (round : Round) : EndsIn (State.Captured st) (s.executeBody st dec round) :=
  endsIn_bind (toCutPoint_ready (freeze_wf h _) rfl hn _ round) fun _ hp => cutOf_captured hp st round

/-! ### Soundness (O18, O47, O49). -/

/-- Settles O18: the state after reset is the engine reset of itself, its spaces are empty, and `NMAX` is 4. -/
theorem resetIsSound : Obligations.ResetIsSound :=
  ⟨engineReset_wf (u := State.reset) empty_described reset_inputs_wf (by decide), engineReset_coherent State.reset⟩

theorem step_wf {s t : State} (hwf : s.Wf) (h : step s = .next t) : t.Wf := by
  have hout := wf_described hwf
  have hinp := wf_canonical hwf
  rcases step_next_cases h with ⟨-, rfl⟩ | ⟨e, d, -, -, rfl⟩ | ⟨st, dec, rnd, round, -, -, -, hn, hbody⟩
  · exact engineReset_wf (u := { s with err := .ok }) hout hinp hwf.config
  · exact raise_wf hwf e d
  · have hcap := executeBody_captured hwf hn st dec round
    rw [hbody] at hcap
    exact hcap.1

/-- Settles O47: `RESET` and an error leave a sound engine reset, and every part of a body keeps the state ready
(`executeBody_captured`). -/
theorem stepKeepsSoundness : Obligations.StepKeepsSoundness := fun _ _ => step_wf

/-- Every act of the host keeps a state sound; what stands in the spaces after an `HRESET` is a premise (R23, R185). -/
theorem act_wf {s t : State} {a : HostAct} (hwf : s.Wf) (hafter : ∀ after, a = .hreset after → after.Canonical)
    (h : s.act a = .next t) : t.Wf := by
  obtain ⟨hv, hk⟩ := wf_canonical hwf
  cases a with
  | hreset after =>
    obtain rfl := Host.Outcome.next.inj h
    exact engineReset_wf (u := { s with dir := none, err := .ok, out := OutBuf.empty, inp := after }) empty_described
      (hafter after rfl) hwf.config
  | vlen n =>
    obtain rfl := Host.Outcome.next.inj h
    exact setInputs_wf hwf ⟨hv, hk⟩
  | klen n =>
    obtain rfl := Host.Outcome.next.inj h
    exact setInputs_wf hwf ⟨hv, hk⟩
  | val x b =>
    obtain rfl := Host.Outcome.next.inj h
    exact setInputs_wf hwf ⟨Memory.write_wf hv x b, hk⟩
  | key x b =>
    obtain rfl := Host.Outcome.next.inj h
    exact setInputs_wf hwf ⟨hv, Memory.write_wf hk x b⟩
  | vals bs =>
    obtain rfl := Host.Outcome.next.inj h
    exact setInputs_wf hwf ⟨Memory.ofBytes_wf bs, hk⟩
  | keys bs =>
    obtain rfl := Host.Outcome.next.inj h
    exact setInputs_wf hwf ⟨hv, Memory.ofBytes_wf bs⟩
  | command w =>
    have hw : (s.writeCmd w).Wf := setInputs_wf hwf ⟨hv, hk⟩
    exact step_wf hw h

/-- A sequence of acts that ends in a state: its first act does, and the others from there. -/
theorem acts_cons_next {a : HostAct} {as : List HostAct} {s t : State} (h : State.acts (a :: as) s = .next t) :
    ∃ u, s.act a = .next u ∧ State.acts as u = .next t := by
  rw [State.acts] at h
  cases ha : s.act a with
  | next u => exact ⟨u, rfl, by rwa [ha] at h⟩
  | fault e => simp [ha] at h
  | refused r => simp [ha] at h

/-- Settles O49, by induction on the acts: each keeps the state sound (`act_wf`). -/
theorem hostActsKeepSoundness : Obligations.HostActsKeepSoundness := by
  intro as
  induction as with
  | nil =>
    intro s t _ hwf h
    obtain rfl := Host.Outcome.next.inj h
    exact hwf
  | cons a as ih =>
    intro s t hafter hwf h
    obtain ⟨u, hu, ht⟩ := acts_cons_next h
    have huwf : u.Wf := act_wf hwf (fun after ha => hafter after (by simp [ha])) hu
    exact ih u t (fun after ha => hafter after (by simp [ha])) huwf ht

/-! ### The fault of a sound state (O51), and `OUT` (O55). -/

/-- Settles O51: only a body can fault, and a body of a sound state only for want of a subkey; in a coherent state every
word completes (`everyWordCompletes`). -/
theorem faultsAreTheHostsDoing : Obligations.FaultsAreTheHostsDoing := by
  intro s e hwf h
  constructor
  · rcases step_outcome s with ⟨-, h'⟩ | ⟨_, _, -, -, h'⟩ | ⟨st, dec, rnd, round, -, -, -, hn, h'⟩
    · simp [h'] at h
    · simp [h'] at h
    · have hends := executeBody_captured hwf hn st dec round
      rw [h'] at h
      cases hbody : s.executeBody st dec round with
      | ok t => simp [hbody] at h
      | error e' =>
        rw [hbody, settle_error, Host.Outcome.fault.injEq] at h
        rw [hbody] at hends
        exact h.symm.trans hends
  · intro hco
    obtain ⟨t, ht⟩ := everyWordCompletes s hco
    simp [ht] at h

/-- Settles O55: an error empties `OUT`, `RESET` is the word 0 and leaves it, and a body ends in the capture of its step
(`executeBody_captured`). -/
theorem outAfterAStep : Obligations.OutAfterAStep := by
  intro s t hwf h
  rcases step_next_cases h with ⟨hdec, rfl⟩ | ⟨e, d, he, -, rfl⟩ | ⟨st, dec, rnd, round, hdec, -, -, hn, hbody⟩
  · have hcmd : s.inp.cmd.toNat = 0 := by simp [eq_zero_of_decode_reset hdec]
    exact ⟨fun hne => absurd rfl hne, fun _ => .inl ⟨hcmd, rfl⟩⟩
  · exact ⟨fun _ => rfl, fun herr => absurd herr he⟩
  · obtain ⟨-, -, -, herr⟩ := executeBody_setting hbody
    have hcap := executeBody_captured hwf hn st dec round
    rw [hbody] at hcap
    obtain ⟨hwf', nv, nk, hv, hk, hshape⟩ := hcap
    exact ⟨fun hne => absurd herr hne, fun _ => .inr
      ⟨st, dec, rnd, nv, nk, hdec, hv, hk, hshape, hwf'.outWidth.symm, hwf'.outCount.symm⟩⟩

end Sys2Proof.Machine
end

section
/-! PROOFS. The family of 20_memory.md: bytes, words and packed outputs (O24), what a load reads (O26), the command that
a step runs (O8), and what a command that does not read a buffer, or reads the same there, makes of it (O27, O52).

The last two compare one command on two sets of inputs. A part of a command takes the same course on other inputs
(`SameCourse`) when it ends there in the same state but for the inputs; a part that reads no input does so on any, a load
does so where its space reads the same (`Inputs.SameSpace`). -/

namespace Sys2Proof.Machine

/-! ### Byte order and packing (R40 to R42). -/

/-- A shift that loses no bit of the value is a shift of its number. -/
theorem setWidth_shiftLeft_toNat {n w : Nat} (x : BitVec n) (k : Nat) (h : n + k ≤ w) :
    (x.setWidth w <<< k).toNat = x.toNat <<< k := by
  have hx : x.toNat < 2 ^ w := x.isLt.trans_le (Nat.pow_le_pow_right (by omega) (by omega))
  have hshift : x.toNat <<< k < 2 ^ w := by
    rw [Nat.shiftLeft_eq]
    calc x.toNat * 2 ^ k < 2 ^ n * 2 ^ k := Nat.mul_lt_mul_of_pos_right x.isLt (Nat.two_pow_pos k)
      _ = 2 ^ (n + k) := (Nat.pow_add 2 n k).symm
      _ ≤ 2 ^ w := Nat.pow_le_pow_right (by omega) h
  rw [BitVec.toNat_shiftLeft, BitVec.toNat_setWidth, Nat.mod_eq_of_lt hx, Nat.mod_eq_of_lt hshift]

/-- Four bytes are the digits of a number to base 256: each byte stands above the bits of the next ones (R40). -/
theorem be32_toNat (b0 b1 b2 b3 : Byte) :
    (be32 b0 b1 b2 b3).toNat = b0.toNat * 2 ^ 24 + b1.toNat * 2 ^ 16 + b2.toNat * 2 ^ 8 + b3.toNat := by
  have h1 := b1.isLt
  have h2 := b2.isLt
  have h3 := b3.isLt
  have h3' : (b3.setWidth 32).toNat = b3.toNat := by
    rw [BitVec.toNat_setWidth]
    omega
  rw [be32, BitVec.toNat_or, BitVec.toNat_or, BitVec.toNat_or, setWidth_shiftLeft_toNat _ _ (by omega),
    setWidth_shiftLeft_toNat _ _ (by omega), setWidth_shiftLeft_toNat _ _ (by omega), h3', Nat.or_assoc, Nat.or_assoc,
    ← Nat.shiftLeft_add_eq_or_of_lt h3, ← Nat.shiftLeft_add_eq_or_of_lt (i := 16) (by omega),
    ← Nat.shiftLeft_add_eq_or_of_lt (i := 24) (by omega)]
  omega

/-- Byte `k` of a word, counted from the most significant, as a digit of its number (R41). -/
theorem byteOf_toNat (k : Nat) (x : Word) : (byteOf k x).toNat = x.toNat / 2 ^ (8 * (3 - k)) % 256 := by
  simp [byteOf, Nat.shiftRight_eq_div_pow]

/-- The four digits of a word to base 256 make the word. -/
theorem be32_byteOf (x : Word) : be32 (byteOf 0 x) (byteOf 1 x) (byteOf 2 x) (byteOf 3 x) = x := by
  apply BitVec.eq_of_toNat_eq
  have hx := x.isLt
  rw [be32_toNat, byteOf_toNat, byteOf_toNat, byteOf_toNat, byteOf_toNat]
  norm_num
  omega

theorem packPair_toNat (hi lo : Word) : (packPair hi lo).toNat = hi.toNat * 2 ^ 32 + lo.toNat := by
  have hlo := lo.isLt
  have hlo' : (lo.setWidth 64).toNat = lo.toNat := by
    rw [BitVec.toNat_setWidth]
    omega
  rw [packPair, BitVec.toNat_or, setWidth_shiftLeft_toNat _ _ (by omega), hlo',
    ← Nat.shiftLeft_add_eq_or_of_lt hlo, Nat.shiftLeft_eq]

/-- Settles O24: each operation as a number, and the word is made of its four digits (`be32_byteOf`). -/
theorem byteOrder : Obligations.ByteOrder :=
  ⟨be32_toNat, be32_byteOf, fun k x _ => byteOf_toNat k x, packPair_toNat⟩

/-! ### What a load reads (R44, R93). -/

theorem readWord_congr {i j : Inputs} {sp : Space} {a : Nat} (hi : a + 4 ≤ i.len sp) (hj : a + 4 ≤ j.len sp)
    (h : ∀ x, x < a + 4 → i.byteAt sp x = j.byteAt sp x) : i.readWord sp a = j.readWord sp a := by
  rw [readWord_of_le hi, readWord_of_le hj, h a (by omega), h (a + 1) (by omega), h (a + 2) (by omega),
    h (a + 3) (by omega)]

theorem readItem_congr {i j : Inputs} {sp : Space} {n : Nat} (hi : 16 * n + 16 ≤ i.len sp)
    (hj : 16 * n + 16 ≤ j.len sp) (h : ∀ x, x < 16 * n + 16 → i.byteAt sp x = j.byteAt sp x) :
    i.readItem sp n = j.readItem sp n := by
  have hword : ∀ a, a + 4 ≤ 16 * n + 16 → i.readWord sp a = j.readWord sp a := fun a ha =>
    readWord_congr (by omega) (by omega) fun x hx => h x (by omega)
  rw [Inputs.readItem, Inputs.readItem, hword _ (by omega), hword _ (by omega), hword _ (by omega),
    hword _ (by omega)]

/-- A loop depends on its iterations alone. -/
theorem forEach_congr {α β : Type} {f g : α → Except Fault β} {is : List α} (h : ∀ i ∈ is, f i = g i) :
    forEach f is = forEach g is := by
  induction is with
  | nil => rfl
  | cons i is ih => rw [forEach, forEach, h i (by simp), ih fun k hk => h k (by simp [hk])]

/-- Settles O26: item `k` is read from the offsets below `16·k + 16`, and every item of the load lies below `16·N`
(`readItem_congr`). -/
theorem loadReadsOnlyItsBytes : Obligations.LoadReadsOnlyItsBytes := by
  intro a b sp n ha hb h
  refine forEach_congr fun k hk => ?_
  have hkn : k < n := List.mem_range.mp hk
  exact readItem_congr (by omega) (by omega) fun x hx => h x (by omega)

/-! ### The command that a step runs (R51, R56, R69). -/

theorem step_of_decode_instr {s : State} {i : Instr} (h : decode s.inp.cmd = .instr i) : step s = exec i s := by
  simp only [step, State.fetch, h]

theorem step_of_decode_unknown {s : State} {dec : Bool} {rnd n : Nat} (h : decode s.inp.cmd = .unknownStep dec rnd n) :
    step s = runUnknownStep dec s := by
  simp only [step, State.fetch, h]

theorem step_of_decode_reserved {s : State} {why : Reserved} (h : decode s.inp.cmd = .reserved why) :
    step s = .next (s.raise .inputShape) := by
  simp only [step, State.fetch, h, runReserved]

theorem ofDec_ne_ofDec_not (dec : Bool) : Direction.ofDec dec ≠ Direction.ofDec (!dec) := by
  cases dec <;> decide

/-- Settles O8: the three classes of words one by one; for an unknown step the direction check decides between its two
ends (`runUnknownStep_cases`). -/
theorem stepRunsTheDecodedCommand : Obligations.StepRunsTheDecodedCommand := by
  intro s
  refine ⟨fun i => step_of_decode_instr, fun dec rnd n hdec => ?_, fun why => step_of_decode_reserved⟩
  rw [step_of_decode_unknown hdec]
  rcases runUnknownStep_cases dec s with ⟨hfree, h⟩ | ⟨d, hd, hne, h⟩
  · refine ⟨fun _ => h, fun hother => ?_⟩
    rw [hother] at hfree
    simp [(ofDec_ne_ofDec_not dec).symm] at hfree
  · refine ⟨fun hfree => ?_, fun _ => h⟩
    rw [hd] at hfree
    simp [hne] at hfree

/-! ### The same command on other inputs. -/

/-- The state with other inputs, all else as it is. -/
def State.withInputs (j : Inputs) (s : State) : State := { s with inp := j }

@[simp] theorem State.withInputs_inp (j : Inputs) (s : State) : (s.withInputs j).inp = j := rfl
@[simp] theorem State.withInputs_cfg (j : Inputs) (s : State) : (s.withInputs j).cfg = s.cfg := rfl
@[simp] theorem State.withInputs_dir (j : Inputs) (s : State) : (s.withInputs j).dir = s.dir := rfl
@[simp] theorem State.withInputs_blkLoaded (j : Inputs) (s : State) : (s.withInputs j).blkLoaded = s.blkLoaded := rfl
@[simp] theorem State.withInputs_keyLoaded (j : Inputs) (s : State) : (s.withInputs j).keyLoaded = s.keyLoaded := rfl
@[simp] theorem State.withInputs_keyRound (j : Inputs) (s : State) : (s.withInputs j).keyRound = s.keyRound := rfl
@[simp] theorem State.withInputs_blockRound (j : Inputs) (s : State) : (s.withInputs j).blockRound = s.blockRound := rfl

/-- A space reads the same in both inputs: its length, and the byte at every offset, written or free (R23, R48). -/
def Inputs.SameSpace (i j : Inputs) (sp : Space) : Prop :=
  j.len sp = i.len sp ∧ ∀ x, j.byteAt sp x = i.byteAt sp x

theorem sameSpace_load {i j : Inputs} {sp : Space} (h : i.SameSpace j sp) {n : Nat} (hn : 16 * n ≤ i.len sp) :
    j.load sp n = i.load sp n := by
  obtain ⟨hlen, hbytes⟩ := h
  exact loadReadsOnlyItsBytes j i sp n (by omega) hn fun x _ => hbytes x

/-- From `s`, the part `F` of a command takes the same course on the inputs `j`: where it ends in a state, it ends on `j`
in that state but for the inputs. -/
def SameCourse (j : Inputs) (F : State → Except Fault State) (s : State) : Prop :=
  ∀ t, F s = .ok t → F (s.withInputs j) = .ok (t.withInputs j)

section
variable {j : Inputs} {s : State}

theorem sameCourse_bind {F G : State → Except Fault State} (hF : SameCourse j F s)
    (hG : ∀ u, F s = .ok u → SameCourse j G u) : SameCourse j (fun s => F s >>= G) s := by
  intro t h
  obtain ⟨u, hu, ht⟩ := bind_eq_ok.mp h
  exact bind_eq_ok.mpr ⟨u.withInputs j, hF u hu, hG u hu t ht⟩

/-! ### The parts that read no input. -/

theorem keyStep_sameCourse (r : Round) : SameCourse j (State.keyStep r) s := by
  intro t h
  simp only [State.keyStep, bind_eq_ok, Except.ok.injEq] at h
  obtain ⟨n, hn, ks, hks, rfl⟩ := h
  exact bind_eq_ok.mpr ⟨n, hn, bind_eq_ok.mpr ⟨ks, hks, rfl⟩⟩

theorem keySteps_sameCourse (rs : List Round) : SameCourse j (State.keySteps rs) s := by
  induction rs generalizing s with
  | nil =>
    intro t h
    obtain rfl := Except.ok.inj h
    rfl
  | cons r rs ih => exact sameCourse_bind (keyStep_sameCourse r) fun u _ => ih

theorem roundFull_sameCourse (r : Round) : SameCourse j (State.roundFull r) s := by
  intro t h
  simp only [State.roundFull, bind_eq_ok, Except.ok.injEq] at h
  obtain ⟨xs, hxs, rfl⟩ := h
  exact bind_eq_ok.mpr ⟨xs, hxs, rfl⟩

/-- The own part of every variant reads the columns alone (R136 to R143). -/
theorem cutOf_sameCourse (st : StepId) (round : Round) : SameCourse j (cutOf st round) s := by
  intro t h
  cases st with
  | out =>
    simp only [cutOf, cutOut, bind_eq_ok, Except.ok.injEq] at h
    obtain ⟨u, hround, n, hn, as, has, rfl⟩ := h
    exact bind_eq_ok.mpr ⟨u.withInputs j, roundFull_sameCourse round u hround,
      bind_eq_ok.mpr ⟨n, hn, bind_eq_ok.mpr ⟨as, has, rfl⟩⟩⟩
  | _ =>
    simp only [cutOf, cutRkey, cutRight, cutArk, cutGda, cutGc, cutGdb, cutF, bind_eq_ok, Except.ok.injEq] at h
    obtain ⟨n, hn, xs, hxs, rfl⟩ := h
    exact bind_eq_ok.mpr ⟨n, hn, bind_eq_ok.mpr ⟨xs, hxs, rfl⟩⟩

theorem rewindTest_withInputs (round : Round) :
    (s.withInputs j).rewindTest round = (s.rewindTest round).withInputs j := by
  rw [State.rewindTest, State.rewindTest, State.withInputs_blockRound]
  split <;> rfl

theorem dirStep_withInputs (dec : Bool) :
    (s.withInputs j).dirStep dec = (s.dirStep dec).map (State.withInputs j) := by
  rw [State.dirStep, State.dirStep, State.withInputs_dir]
  split
  · rfl
  · split <;> rfl

/-! ### The loads, and the parts of a body around them (R91, R92, R133 to R135). -/

theorem blockLoad_sameCourse (hv : s.inp.SameSpace j .vals) : SameCourse j State.blockLoad s := by
  intro t h
  simp only [State.blockLoad, bind_eq_ok, Except.ok.injEq] at h
  obtain ⟨qs, hqs, rfl⟩ := h
  have hlen : j.vlen = s.inp.vlen := hv.1
  have hload : j.load .vals (itemCount s.inp.vlen) = .ok qs :=
    (sameSpace_load hv (Nat.mul_div_le s.inp.vlen 16)).trans hqs
  rw [State.blockLoad, State.withInputs_inp, hlen, hload]
  rfl

theorem keyLoad_sameCourse (hk : s.inp.SameSpace j .keys) : SameCourse j State.keyLoad s := by
  intro t h
  simp only [State.keyLoad, bind_eq_ok, Except.ok.injEq] at h
  obtain ⟨qs, hqs, rfl⟩ := h
  have hlen : j.klen = s.inp.klen := hk.1
  have hload : j.load .keys (itemCount s.inp.klen) = .ok qs :=
    (sameSpace_load hk (Nat.mul_div_le s.inp.klen 16)).trans hqs
  rw [State.keyLoad, State.withInputs_inp, hlen, hload]
  rfl

/-- The one input that the key schedule reads is `KEYS`, in a rewind (R95, R96). -/
theorem keyAdvanceTo_sameCourse (hk : s.inp.SameSpace j .keys) (kr : Round) :
    SameCourse j (State.keyAdvanceTo kr) s := by
  intro t h
  by_cases heq : s.keyRound = some kr
  · rw [State.keyAdvanceTo, if_pos heq] at h
    obtain rfl := Except.ok.inj h
    rw [State.keyAdvanceTo, State.withInputs_keyRound, if_pos heq]
  · by_cases hlt : (kr.val : Int) < tagVal s.keyRound
    · rw [State.keyAdvanceTo, if_neg heq, if_pos hlt, keyRewind_eq_keyLoad] at h
      rw [State.keyAdvanceTo, State.withInputs_keyRound, if_neg heq, if_pos hlt, keyRewind_eq_keyLoad]
      obtain ⟨u, hu, ht⟩ := bind_eq_ok.mp h
      exact bind_eq_ok.mpr ⟨u.withInputs j, keyLoad_sameCourse hk u hu, keySteps_sameCourse _ t ht⟩
    · rw [State.keyAdvanceTo, if_neg heq, if_neg hlt, ok_bind] at h
      rw [State.keyAdvanceTo, State.withInputs_keyRound, if_neg heq, if_neg hlt, ok_bind]
      exact keySteps_sameCourse _ t h

theorem prepare_setting {round : Round} {t : State} (h : s.prepare round = .ok t) : s.SameSetting t := by
  obtain ⟨u, hblocks, hkeys⟩ := bind_eq_ok.mp h
  exact sameSetting_trans (sameSetting_trans (rewindTest_setting round s) (ensureBlocks_setting hblocks))
    (ensureKeys_setting hkeys)

theorem fullRound_setting {d : Direction} {r : Round} {t : State} (h : s.fullRound d r = .ok t) : s.SameSetting t := by
  obtain ⟨u, hkey, hround⟩ := bind_eq_ok.mp h
  exact sameSetting_trans (keyAdvanceTo_setting hkey) (roundFull_setting hround)

theorem fullRound_sameCourse (hk : s.inp.SameSpace j .keys) (d : Direction) (r : Round) :
    SameCourse j (State.fullRound d r) s :=
  sameCourse_bind (keyAdvanceTo_sameCourse hk _) fun _ _ => roundFull_sameCourse r

theorem fullRounds_sameCourse (hk : s.inp.SameSpace j .keys) (d : Direction) (rs : List Round) :
    SameCourse j (State.fullRounds d rs) s := by
  induction rs generalizing s with
  | nil =>
    intro t h
    obtain rfl := Except.ok.inj h
    rfl
  | cons r rs ih =>
    refine sameCourse_bind (fullRound_sameCourse hk d r) fun u hu => ih ?_
    obtain ⟨hinp, -, -⟩ := fullRound_setting hu
    rwa [hinp]

theorem ensureBlocks_sameCourse (hv : s.blkLoaded = true ∨ s.inp.SameSpace j .vals) :
    SameCourse j State.ensureBlocks s := by
  intro t h
  rw [State.ensureBlocks] at h ⊢
  rw [State.withInputs_blkLoaded]
  split at h
  next hb =>
    obtain rfl := Except.ok.inj h
    rw [if_pos hb]
  next hb =>
    rw [if_neg hb]
    exact blockLoad_sameCourse (hv.resolve_left hb) t h

theorem ensureKeys_sameCourse (hk : s.inp.SameSpace j .keys) : SameCourse j State.ensureKeys s := by
  intro t h
  rw [State.ensureKeys] at h ⊢
  rw [State.withInputs_keyLoaded]
  split at h
  next hb =>
    obtain rfl := Except.ok.inj h
    rw [if_pos hb]
  next hb =>
    rw [if_neg hb]
    exact keyLoad_sameCourse hk t h

/-- A command for the round has the same blocks on the inputs `j`: they are loaded and the round is ahead of the position,
so that it does not load them, or `VALS` reads the same (R55, R133). -/
def State.SameBlocks (s : State) (j : Inputs) (round : Round) : Prop :=
  (s.blkLoaded = true ∧ tagVal s.blockRound < (round.val : Int)) ∨ s.inp.SameSpace j .vals

theorem prepare_sameCourse {round : Round} (hb : s.SameBlocks j round) (hk : s.inp.SameSpace j .keys) :
    SameCourse j (State.prepare round) s := by
  obtain ⟨hinp, -, -⟩ := rewindTest_setting round s
  have hloaded : (s.rewindTest round).blkLoaded = true ∨ (s.rewindTest round).inp.SameSpace j .vals := by
    rcases hb with ⟨hb, hpos⟩ | hv
    · rw [State.rewindTest, if_neg (by omega)]
      exact .inl hb
    · rw [hinp]
      exact .inr hv
  intro t h
  rw [State.prepare, rewindTest_withInputs]
  refine sameCourse_bind (ensureBlocks_sameCourse hloaded) (fun u hu => ensureKeys_sameCourse ?_) t h
  obtain ⟨hinp', -, -⟩ := ensureBlocks_setting hu
  rwa [hinp', hinp]

theorem toCutPoint_sameCourse {round : Round} (hb : s.SameBlocks j round) (hk : s.inp.SameSpace j .keys)
    (d : Direction) : SameCourse j (State.toCutPoint d round) s := by
  intro t h
  obtain ⟨s1, h1, h⟩ := bind_eq_ok.mp h
  obtain ⟨s2, h2, h3⟩ := bind_eq_ok.mp h
  obtain ⟨hinp1, -, -⟩ := prepare_setting h1
  obtain ⟨hinp2, -, -⟩ := fullRounds_setting h2
  have hk1 : s1.inp.SameSpace j .keys := by rwa [hinp1]
  have hk2 : s2.inp.SameSpace j .keys := by rwa [hinp2]
  exact bind_eq_ok.mpr ⟨s1.withInputs j, prepare_sameCourse hb hk s1 h1, bind_eq_ok.mpr ⟨s2.withInputs j,
    fullRounds_sameCourse hk1 d _ s2 h2, keyAdvanceTo_sameCourse hk2 _ t h3⟩⟩

theorem executeBody_sameCourse {round : Round} (hb : s.SameBlocks j round) (hk : s.inp.SameSpace j .keys) (st : StepId)
    (dec : Bool) : SameCourse j (fun s => s.executeBody st dec round) s := by
  intro t h
  obtain ⟨u, hu, ht⟩ := bind_eq_ok.mp h
  have hb' : State.SameBlocks { s with dir := some (Direction.ofDec dec) } j round := hb
  exact bind_eq_ok.mpr ⟨u.withInputs j, toCutPoint_sameCourse hb' hk _ u hu, cutOf_sameCourse st round t ht⟩

/-! ### A whole command, and a step. -/

theorem inputStep_round {rnd : Nat} {round : Round} (h : s.inputStep rnd = .ok round) : round.val + 1 = rnd := by
  rcases inputStep_cases rnd s with ⟨r, hr, -, -, h'⟩ | ⟨-, h'⟩ | ⟨-, -, -, -, h'⟩ <;> rw [h'] at h
  · obtain rfl := Except.ok.inj h
    exact hr
  · cases h
  · cases h

/-- The input checks read the lengths alone (R132). -/
theorem inputStep_withInputs (hv : j.vlen = s.inp.vlen) (hk : j.klen = s.inp.klen) (rnd : Nat) :
    (s.withInputs j).inputStep rnd = s.inputStep rnd := by
  have hshape : j.shapeOk = s.inp.shapeOk := by simp only [Inputs.shapeOk, hv, hk]
  rw [State.inputStep, State.inputStep, State.withInputs_inp, State.withInputs_cfg, hshape, hv]

theorem runExecute_withInputs {st : StepId} {dec : Bool} {rnd : Nat} {t : State} (hv : j.vlen = s.inp.vlen)
    (hk : s.inp.SameSpace j .keys) (hb : ∀ round : Round, round.val + 1 = rnd → s.SameBlocks j round)
    (h : runExecute dec rnd (cutOf st) s = .next t) :
    runExecute dec rnd (cutOf st) (s.withInputs j) = .next (t.withInputs j) := by
  rw [runExecute] at h ⊢
  rw [dirStep_withInputs]
  rcases dirStep_cases dec s with ⟨-, hd⟩ | ⟨-, -, -, hd⟩
  · have hi := inputStep_withInputs (s := { s with dir := some (Direction.ofDec dec) }) hv hk.1 rnd
    simp only [hd] at h
    simp only [hd, Except.map, hi]
    cases hr : State.inputStep rnd { s with dir := some (Direction.ofDec dec) } with
    | error e =>
      simp only [hr] at h
      obtain rfl := Host.Outcome.next.inj h
      rfl
    | ok round =>
      simp only [hr] at h
      exact settle_eq_next.mpr
        (executeBody_sameCourse (hb round (inputStep_round hr)) hk st dec t (settle_eq_next.mp h))
  · simp only [hd] at h
    simp only [hd, Except.map]
    obtain rfl := Host.Outcome.next.inj h
    rfl

theorem runUnknownStep_withInputs {dec : Bool} {t : State} (h : runUnknownStep dec s = .next t) :
    runUnknownStep dec (s.withInputs j) = .next (t.withInputs j) := by
  rw [runUnknownStep] at h ⊢
  rw [dirStep_withInputs]
  cases hd : s.dirStep dec with
  | error e =>
    simp only [hd] at h
    obtain rfl := Host.Outcome.next.inj h
    rfl
  | ok u =>
    simp only [hd] at h
    obtain rfl := Host.Outcome.next.inj h
    rfl

/-- A step whose word and whose two spaces read the same takes the same course (R23, R48). -/
theorem step_withInputs {t : State} (hcmd : j.cmd = s.inp.cmd) (hsame : ∀ sp, s.inp.SameSpace j sp)
    (h : step s = .next t) : step (s.withInputs j) = .next (t.withInputs j) := by
  have hdec : decode (s.withInputs j).inp.cmd = decode s.inp.cmd := by rw [State.withInputs_inp, hcmd]
  cases hw : decode s.inp.cmd with
  | instr i =>
    rw [step_of_decode_instr hw] at h
    rw [step_of_decode_instr (hdec.trans hw)]
    rcases instr_eq_reset_or_ofStep i with rfl | ⟨st, dec, rnd, rfl⟩
    · obtain rfl := Host.Outcome.next.inj h
      rfl
    · rw [exec_ofStep] at h ⊢
      exact runExecute_withInputs (hsame .vals).1 (hsame .keys) (fun _ _ => .inr (hsame .vals)) h
  | unknownStep dec rnd n =>
    rw [step_of_decode_unknown hw] at h
    rw [step_of_decode_unknown (hdec.trans hw)]
    exact runUnknownStep_withInputs h
  | reserved why =>
    rw [step_of_decode_reserved hw] at h
    rw [step_of_decode_reserved (hdec.trans hw)]
    obtain rfl := Host.Outcome.next.inj h
    rfl

end

/-! ### Loaded blocks, and bytes that are written as they read (R48, R55). -/

theorem runExecute_inp {st : StepId} {dec : Bool} {rnd : Nat} {s t : State}
    (h : runExecute dec rnd (cutOf st) s = .next t) : t.inp = s.inp := by
  rcases runExecute_cases dec rnd (cutOf st) s with
    ⟨_, -, -, h'⟩ | ⟨-, ⟨-, h'⟩ | ⟨-, -, -, -, h'⟩ | ⟨round, -, -, -, h'⟩⟩ <;> rw [h'] at h
  · obtain rfl := Host.Outcome.next.inj h
    rfl
  · obtain rfl := Host.Outcome.next.inj h
    rfl
  · obtain rfl := Host.Outcome.next.inj h
    rfl
  · obtain ⟨hinp, -, -, -⟩ := executeBody_setting (settle_eq_next.mp h)
    exact hinp

/-- Settles O27: the inputs differ in `VALS` alone, which a command that does not load the blocks does not read
(`runExecute_withInputs`). -/
theorem loadedBlocksAreNotReadAgain : Obligations.LoadedBlocksAreNotReadAgain := by
  intro s t m st dec round hloaded hahead h
  rw [exec_ofStep] at h ⊢
  have hblocks : ∀ r : Round, r.val + 1 = round.val + 1 → s.SameBlocks { s.inp with vals := m } r := fun r hr =>
    .inl ⟨hloaded, by omega⟩
  rw [runExecute_inp h]
  exact runExecute_withInputs (j := { s.inp with vals := m }) rfl ⟨rfl, fun _ => rfl⟩ hblocks h

/-- A byte reads as before at every offset after the host has written to one offset what reads there (R48). -/
theorem read_write_getD {m : Memory} (h : m.wf) (f : Nat → Byte) (a x : Nat) :
    ((m.write a ((m.read a).getD (f a))).read x).getD (f x) = (m.read x).getD (f x) := by
  by_cases hx : a = x
  · subst hx
    rw [Memory.read_write_same h, Option.getD_some]
  · rw [Memory.read_write_other h _ hx]

/-- Settles O52: the write leaves both spaces reading the same (`read_write_getD`), so the step takes the same course
(`step_withInputs`). -/
theorem unwrittenBytesAreOrdinaryBytes : Obligations.UnwrittenBytesAreOrdinaryBytes := by
  intro s t a hwf h
  obtain ⟨hinp, -⟩ := stepLeavesTheInputs s t h
  rw [State.writeVal, State.writeVal, State.writeKey, State.writeKey, hinp]
  constructor
  · refine step_withInputs (j := { s.inp with vals := s.inp.vals.write a (s.inp.byteAt .vals a) }) rfl (fun sp => ?_) h
    cases sp with
    | vals => exact ⟨rfl, read_write_getD hwf.valsForm (s.inp.unwritten .vals) a⟩
    | keys => exact ⟨rfl, fun _ => rfl⟩
  · refine step_withInputs (j := { s.inp with keys := s.inp.keys.write a (s.inp.byteAt .keys a) }) rfl (fun sp => ?_) h
    cases sp with
    | vals => exact ⟨rfl, fun _ => rfl⟩
    | keys => exact ⟨rfl, read_write_getD hwf.keysForm (s.inp.unwritten .keys) a⟩

end Sys2Proof.Machine
end

section
/-! PROOFS. The family of 30_encoding.md: the command word and its five fields (O1 to O4), and the quantities that a
command derives from its fields and from the lengths (O6).

A word is its five fields (`eq_iff_fields`); decoding is said once on the fields (`decode_eq_ofStep_iff` and the lemmas
beside it), and the statements follow by reading the fields of the word at hand. -/

namespace Sys2Proof.Machine

/-! ### The fields as numbers (R61, R63). -/

theorem zeroField_toNat (w : CmdWord) : (zeroField w).toNat = w.toNat % 4 := by
  simp [zeroField]

theorem stepField_eq (w : CmdWord) : stepField w = w.toNat / 4 % 16 := by
  simp [stepField, Nat.shiftRight_eq_div_pow]

theorem rndField_eq (w : CmdWord) : rndField w = w.toNat / 64 % 32 := by
  simp [rndField, Nat.shiftRight_eq_div_pow]

theorem rndField_lt (w : CmdWord) : rndField w < 32 := by
  rw [rndField_eq]
  exact Nat.mod_lt _ (by decide)

theorem decField_toNat (w : CmdWord) : (decField w).toNat = w.toNat / 2048 % 2 := by
  have hbit := decField_eq_true w
  cases hd : decField w with
  | true => exact (hbit.mp hd).symm
  | false =>
    rw [hd] at hbit
    simp only [Bool.false_eq_true, false_iff] at hbit
    simp only [Bool.toNat_false]
    omega

theorem zeroField_eq_zero (w : CmdWord) : zeroField w = 0 ↔ w.toNat % 4 = 0 := by
  rw [← BitVec.toNat_inj, zeroField_toNat]
  rfl

theorem opField_eq_zero (w : CmdWord) : opField w = 0 ↔ w.toNat / 4096 = 0 := by
  rw [← BitVec.toNat_inj, opField_toNat]
  rfl

theorem opField_eq_one (w : CmdWord) : opField w = 1 ↔ w.toNat / 4096 = 1 := by
  rw [← BitVec.toNat_inj, opField_toNat]
  rfl

theorem cmdWord_eq_zero (w : CmdWord) : w = 0 ↔ w.toNat = 0 := by
  rw [← BitVec.toNat_inj]
  rfl

/-- The five fields side by side are the whole word (R61). -/
theorem toNat_eq_fields (w : CmdWord) :
    w.toNat = 4096 * (opField w).toNat + 2048 * (decField w).toNat + 64 * rndField w + 4 * stepField w +
      (zeroField w).toNat := by
  rw [opField_toNat, decField_toNat, rndField_eq, stepField_eq, zeroField_toNat]
  omega

/-- A word is determined by its five fields (R61). -/
theorem eq_iff_fields {v w : CmdWord} :
    v = w ↔ zeroField v = zeroField w ∧ opField v = opField w ∧ decField v = decField w ∧
      rndField v = rndField w ∧ stepField v = stepField w := by
  constructor
  · rintro rfl
    exact ⟨rfl, rfl, rfl, rfl, rfl⟩
  · rintro ⟨hzero, hop, hdec, hrnd, hstep⟩
    apply BitVec.eq_of_toNat_eq
    rw [toNat_eq_fields v, toNat_eq_fields w, hzero, hop, hdec, hrnd, hstep]

/-- A word is that of an `EXECUTE` exactly when its fields are the operands, the round as five bits hold it (R61). -/
theorem eq_execWord_iff {w : CmdWord} {st : StepId} {dec : Bool} {rnd : Nat} :
    w = execWord st dec rnd ↔
      zeroField w = 0 ∧ opField w = 1 ∧ decField w = dec ∧ rndField w = rnd % 32 ∧ stepField w = st.id := by
  obtain ⟨hzero, hop, hdec, hrnd, hstep⟩ := execWord_fields st dec rnd
  rw [eq_iff_fields, hzero, hop, hdec, hrnd, hstep]

/-! ### Decoding, on the fields (R62, R64, R69). -/

theorem ofId?_of_le {n : Nat} (h : 8 ≤ n) : StepId.ofId? n = none := by
  obtain ⟨m, rfl⟩ := Nat.exists_eq_add_of_le' h
  rfl

theorem id_of_ofId? {n : Nat} {st : StepId} (h : StepId.ofId? n = some st) : n = st.id := by
  rw [StepId.ofId?.eq_def] at h
  split at h <;> cases h <;> rfl

theorem decode_of_zeroField {w : CmdWord} (h : zeroField w ≠ 0) : decode w = .reserved .lowBits := by
  rw [decode, if_pos h]

/-- `op` 0 with a nonzero word is reserved, whatever its low bits (R69). -/
theorem decode_of_opField_zero {w : CmdWord} (hop : opField w = 0) (hw : w ≠ 0) : ∃ why, decode w = .reserved why := by
  by_cases hzero : zeroField w = 0
  · exact ⟨_, by rw [decode, if_neg (not_not_intro hzero), if_pos hop, if_neg hw]⟩
  · exact ⟨_, decode_of_zeroField hzero⟩

/-- `op` 2 to 15 is reserved, whatever the low bits (R69). -/
theorem decode_of_two_le_opField {w : CmdWord} (hop : 2 ≤ (opField w).toNat) : ∃ why, decode w = .reserved why := by
  have h0 : opField w ≠ 0 := fun h => by simp [h] at hop
  have h1 : opField w ≠ 1 := fun h => by simp [h] at hop
  by_cases hzero : zeroField w = 0
  · exact ⟨_, by rw [decode, if_neg (not_not_intro hzero), if_neg h0, if_neg h1]⟩
  · exact ⟨_, decode_of_zeroField hzero⟩

theorem decode_of_execute {w : CmdWord} {st : StepId} (hzero : zeroField w = 0) (hop : opField w = 1)
    (hstep : stepField w = st.id) : decode w = .instr (Instr.ofStep st (decField w) (rndField w)) := by
  rw [decode, if_neg (not_not_intro hzero), if_neg (by simp [hop]), if_pos hop, hstep, ofId?_id]

theorem decode_of_unknown {w : CmdWord} (hzero : zeroField w = 0) (hop : opField w = 1) (hstep : 8 ≤ stepField w) :
    decode w = .unknownStep (decField w) (rndField w) (stepField w) := by
  rw [decode, if_neg (not_not_intro hzero), if_neg (by simp [hop]), if_pos hop, ofId?_of_le hstep]

theorem decode_eq_reset_iff (w : CmdWord) : decode w = .instr .reset ↔ w = 0 := by
  refine ⟨eq_zero_of_decode_reset, ?_⟩
  rintro rfl
  rfl

/-- The words of one `EXECUTE`, by their fields (R61, R62). -/
theorem decode_eq_ofStep_iff {w : CmdWord} {st : StepId} {dec : Bool} {rnd : Nat} :
    decode w = .instr (Instr.ofStep st dec rnd) ↔
      zeroField w = 0 ∧ opField w = 1 ∧ decField w = dec ∧ rndField w = rnd ∧ stepField w = st.id := by
  constructor
  · intro h
    have hzero : zeroField w = 0 := by
      by_contra hne
      simp [decode_of_zeroField hne] at h
    rcases decode_cases w with ⟨_, h'⟩ | ⟨-, h'⟩ | ⟨hop, ⟨st', hst, h'⟩ | h'⟩
    · simp [h'] at h
    · rw [h', Decoded.instr.injEq] at h
      exact absurd h.symm (ofStep_ne_reset _ _ _)
    · rw [h', Decoded.instr.injEq] at h
      obtain ⟨rfl, hdec, hrnd⟩ := ofStep_inj.mp h
      exact ⟨hzero, hop, hdec, hrnd, id_of_ofId? hst⟩
    · simp [h'] at h
  · rintro ⟨hzero, hop, rfl, rfl, hstep⟩
    exact decode_of_execute hzero hop hstep

/-- Settles O1: the fields of the word are the command's operands (`execWord_fields`), and decoding reads the fields
back, which `decode_encode` says for every command whose round fits its field. -/
theorem decodeEncodeRoundTrip : Obligations.DecodeEncodeRoundTrip := by
  intro i hi
  exact decode_encode hi

/-- Settles O2: `RESET` has the word 0, and the word of an `EXECUTE` is determined by its fields (`eq_execWord_iff`), of
which the round has five bits. -/
theorem encodeIsTheOnlyWord : Obligations.EncodeIsTheOnlyWord := by
  intro w i h
  rcases instr_eq_reset_or_ofStep i with rfl | ⟨st, dec, rnd, rfl⟩
  · exact ⟨(eq_zero_of_decode_reset h).symm, rfl⟩
  · obtain ⟨hzero, hop, hdec, hrnd, hstep⟩ := decode_eq_ofStep_iff.mp h
    have hlt : rnd < 32 := hrnd ▸ rndField_lt w
    have hmod : rndField w = rnd % 32 := by rw [hrnd, Nat.mod_eq_of_lt hlt]
    rw [encode_ofStep, wellFormed_ofStep]
    exact ⟨(eq_execWord_iff.mpr ⟨hzero, hop, hdec, hmod, hstep⟩).symm, hlt⟩

/-- Settles O3: each clause is the decoding of one class of words (`decode_of_zeroField` and the lemmas after it), its
fields written as numbers. -/
theorem decodeReadsTheFields : Obligations.DecodeReadsTheFields := by
  intro w
  refine ⟨fun h => ?_, fun hop hw => ?_, fun hw => ?_, fun hzero hop dec hdec => ?_⟩
  · rw [Ne, ← zeroField_eq_zero] at h
    rcases h with hzero | hop
    · exact ⟨_, decode_of_zeroField hzero⟩
    · exact decode_of_two_le_opField ((opField_toNat w).symm ▸ hop)
  · exact decode_of_opField_zero ((opField_eq_zero w).mpr hop) (mt (cmdWord_eq_zero w).mp hw)
  · exact (decode_eq_reset_iff w).mpr ((cmdWord_eq_zero w).mpr hw)
  · rw [← zeroField_eq_zero] at hzero
    rw [← opField_eq_one] at hop
    obtain rfl : decField w = dec := Bool.eq_iff_iff.mpr ((decField_eq_true w).trans hdec.symm)
    rw [← stepField_eq, ← rndField_eq]
    exact ⟨fun st hstep => decode_of_execute hzero hop hstep, fun hstep => decode_of_unknown hzero hop hstep⟩

/-! ### The match and mask columns (R62, section 3). -/

theorem maskBits_ofStep (st : StepId) (dec : Bool) (rnd : Nat) :
    maskBits (Instr.ofStep st dec rnd) = 0xF03F#16 := by
  cases st <;> rfl

/-- The match column holds the word of the step with its free fields zero. -/
theorem matchBits_ofStep (st : StepId) (dec : Bool) (rnd : Nat) :
    matchBits (Instr.ofStep st dec rnd) = execWord st false 0 := by
  cases st <;> rfl

theorem execWord_false_zero (st : StepId) : execWord st false 0 = 0x1000#16 ||| BitVec.ofNat 16 (4 * st.id) := by
  cases st <;> decide

/-- The mask of a step keeps `op`, `step` and `zero`, and clears `dec` and `rnd`. -/
theorem fields_and_mask (w : CmdWord) :
    zeroField (w &&& 0xF03F#16) = zeroField w ∧ opField (w &&& 0xF03F#16) = opField w ∧
      decField (w &&& 0xF03F#16) = false ∧ rndField (w &&& 0xF03F#16) = 0 ∧
      stepField (w &&& 0xF03F#16) = stepField w := by
  refine ⟨?_, ?_, ?_, ?_, ?_⟩
  · rw [zeroField, BitVec.extractLsb'_and]
    exact BitVec.and_allOnes
  · rw [opField, BitVec.extractLsb'_and]
    exact BitVec.and_allOnes
  · rw [decField, BitVec.getLsbD_and]
    exact Bool.and_false _
  · rw [rndField, BitVec.extractLsb'_and]
    exact congrArg BitVec.toNat BitVec.and_zero
  · rw [stepField, BitVec.extractLsb'_and]
    exact congrArg BitVec.toNat BitVec.and_allOnes

/-- A masked word is a step's match exactly when the word is an `EXECUTE` of that step (R62). -/
theorem and_mask_eq_iff (w : CmdWord) (st : StepId) :
    w &&& 0xF03F#16 = execWord st false 0 ↔ ∃ dec rnd, decode w = .instr (Instr.ofStep st dec rnd) := by
  obtain ⟨hzero, hop, hdec, hrnd, hstep⟩ := fields_and_mask w
  rw [eq_execWord_iff, hzero, hop, hdec, hrnd, hstep]
  constructor
  · rintro ⟨hz, ho, -, -, hs⟩
    exact ⟨_, _, decode_eq_ofStep_iff.mpr ⟨hz, ho, rfl, rfl, hs⟩⟩
  · rintro ⟨_, _, h⟩
    obtain ⟨hz, ho, -, -, hs⟩ := decode_eq_ofStep_iff.mp h
    exact ⟨hz, ho, rfl, rfl, hs⟩

/-- Settles O4: the mask of `RESET` keeps the whole word, and that of a step its fixed fields (`and_mask_eq_iff`). -/
theorem matchAndMaskSelectTheRow : Obligations.MatchAndMaskSelectTheRow := by
  intro w
  refine ⟨?_, fun st => ?_⟩
  · rw [decode_eq_reset_iff]
    have hmask : w &&& maskBits .reset = w := BitVec.and_allOnes
    rw [hmask]
    rfl
  · rw [maskBits_ofStep, matchBits_ofStep]
    exact ⟨execWord_false_zero st, rfl, and_mask_eq_iff w st⟩

/-! ### The quantities of a command (R65 to R68). -/

theorem df_ofDec (dec : Bool) : (Direction.ofDec dec).df = if dec then 15 else 0 := by
  cases dec <;> rfl

theorem ksRound_val (d : Direction) (r : Round) : ((ksRound d r).val : Int) = |(d.df : Int) - (r.val : Int)| :=
  Int.natCast_natAbs _

theorem ksRound_encrypt (r : Round) : (ksRound .encrypt r).val = r.val := by
  simp only [ksRound, Direction.df]
  omega

theorem ksRound_decrypt (r : Round) : (ksRound .decrypt r).val = 15 - r.val := by
  have := r.isLt
  simp only [ksRound, Direction.df, maxRounds]
  omega

/-- Settles O6, from the lemma of each quantity. -/
theorem operandsOfACommand : Obligations.OperandsOfACommand := by
  refine ⟨df_ofDec, fun rnd r => ?_, ksRound_val, fun r => ⟨ksRound_encrypt r, ksRound_decrypt r⟩, fun _ => rfl⟩
  have hr := r.isLt
  rw [roundOf?_eq_some]
  omega

end Sys2Proof.Machine
end

section
/-! PROOFS. The family of 40_constant_tables.md: the round constants (O23), the G-function (O19), the S-box tables from the
byte tables (O20) and the rotations between them (O21), and the closed form of the byte tables (O22).

A listing is checked against its formula entry by entry. The rest follows: a rotation by whole bytes permutes the bytes of
a word (`be32_rotateLeft_16`, `be32_rotateRight_8`), and `SS0` and `SS1` have the same words because both byte tables
reach every byte (`byteTables_bijective`). -/

namespace Sys2Proof.Machine

/-! ### Bytes of a word: rotations by whole bytes, and the mask of the last one. -/

theorem be32_rotateLeft_16 (b0 b1 b2 b3 : Byte) : (be32 b0 b1 b2 b3).rotateLeft 16 = be32 b2 b3 b0 b1 := by
  ext i hi
  grind [be32]

theorem be32_rotateRight_8 (b0 b1 b2 b3 : Byte) : (be32 b0 b1 b2 b3).rotateRight 8 = be32 b3 b0 b1 b2 := by
  ext i hi
  grind [be32]

theorem zero_rotateLeft (n : Nat) : (0 : Word).rotateLeft n = 0 := by
  simp [BitVec.rotateLeft_def]

/-- The source's mask keeps what the model's truncation to a byte keeps (R82). -/
theorem setWidth_and_ff (x : Word) : (x &&& 0xff#32).setWidth 8 = x.setWidth 8 := by
  have hff : (0xff#32).setWidth 8 = BitVec.allOnes 8 := by decide
  rw [BitVec.setWidth_and, hff, BitVec.and_allOnes]

/-! ### The round constants (R81). -/

theorem kc_eq_rotateLeft : ∀ r : Round, kc r = (kc 0).rotateLeft r.val := by
  decide

/-- Settles O23: `kc_eq_rotateLeft`, the rotation written as its two shifts. -/
theorem roundConstantsRotate : Obligations.RoundConstantsRotate := by
  refine ⟨by decide, fun r _ => ?_⟩
  have hr : r.val % 32 = r.val := Nat.mod_eq_of_lt (by omega)
  rw [kc_eq_rotateLeft, BitVec.rotateLeft_def, hr]

/-! ### The G-function (R82, R86). -/

/-- Settles O19: a byte of the word is the source's masked shift, and the example is evaluated. -/
theorem gFunctionOfTheSource : Obligations.GFunctionOfTheSource := by
  refine ⟨fun x => ?_, by decide⟩
  rw [setWidth_and_ff, setWidth_and_ff, setWidth_and_ff, setWidth_and_ff]
  rfl

/-! ### The byte tables are permutations (R85). -/

/-- The values of `f` at the first `n` bytes, each a set bit of one number. -/
def valuesHit (f : Byte → Byte) : Nat → Nat
  | 0 => 0
  | n + 1 => valuesHit f n ||| 2 ^ (f (BitVec.ofNat 8 n)).toNat

theorem exists_of_testBit_valuesHit {f : Byte → Byte} {c : Byte} {n : Nat}
    (h : (valuesHit f n).testBit c.toNat = true) : ∃ b, f b = c := by
  induction n with
  | zero => simp [valuesHit] at h
  | succ n ih =>
    rw [valuesHit, Nat.testBit_or, Bool.or_eq_true] at h
    obtain hbefore | hhere := h
    · exact ih hbefore
    · rw [Nat.testBit_two_pow, decide_eq_true_eq] at hhere
      exact ⟨_, BitVec.eq_of_toNat_eq hhere⟩

/-- A byte table whose values set all 256 bits is a permutation: it is onto, and the bytes are finitely many. -/
theorem bijective_of_valuesHit {f : Byte → Byte} (h : valuesHit f 256 = 2 ^ 256 - 1) : Function.Bijective f := by
  refine Finite.surjective_iff_bijective.mp fun c => exists_of_testBit_valuesHit (n := 256) ?_
  rw [h, Nat.testBit_two_pow_sub_one, decide_eq_true_eq]
  exact c.isLt

theorem byteTables_bijective : Function.Bijective s1 ∧ Function.Bijective s2 := by
  have hhit : valuesHit s1 256 = 2 ^ 256 - 1 ∧ valuesHit s2 256 = 2 ^ 256 - 1 := by decide +kernel
  exact hhit.imp bijective_of_valuesHit bijective_of_valuesHit

/-! ### The S-box tables from the byte tables (R83). -/

/-- Settles O20: the four listings against the four formulas, at each of the 256 bytes. -/
theorem tablesFromTheByteTables : Obligations.TablesFromTheByteTables := by
  unfold Obligations.TablesFromTheByteTables
  decide +kernel

/-! ### The rotations between the S-box tables (R84). -/

theorem ss2_eq_rotateLeft (b : Byte) : ss2 b = (ss0 b).rotateLeft 16 := by
  obtain ⟨h0, -, h2, -⟩ := tablesFromTheByteTables b
  rw [h2, h0, be32_rotateLeft_16]

theorem ss3_eq_rotateLeft (b : Byte) : ss3 b = (ss1 b).rotateLeft 16 := by
  obtain ⟨-, h1, -, h3⟩ := tablesFromTheByteTables b
  rw [h3, h1, be32_rotateLeft_16]

/-- The masks of `SS1` are those of `SS0` rotated right by a byte, so equal bytes of `S2` and `S1` give rotated words. -/
theorem ss1_eq_rotateRight {b c : Byte} (h : s2 b = s1 c) : ss1 b = (ss0 c).rotateRight 8 := by
  obtain ⟨-, h1, -, -⟩ := tablesFromTheByteTables b
  obtain ⟨h0, -, -, -⟩ := tablesFromTheByteTables c
  rw [h1, h0, be32_rotateRight_8, h]

/-- `SS0[0x5A]` is 0, which every rotation keeps, and `SS1[0x5A]` is not. -/
theorem ss1_ne_rotateLeft (n : Nat) : ss1 0x5A ≠ (ss0 0x5A).rotateLeft n := by
  have hzero : ss0 0x5A = 0 := by decide
  have hne : ss1 0x5A ≠ 0 := by decide
  rwa [hzero, zero_rotateLeft]

/-- Settles O21: the rotations by the order of the masks, the equal sets of words because `S1` and `S2` are onto. -/
theorem tableRotations : Obligations.TableRotations := by
  obtain ⟨hs1, hs2⟩ := byteTables_bijective
  refine ⟨fun b => ⟨ss2_eq_rotateLeft b, ss3_eq_rotateLeft b⟩, fun n => ⟨_, ss1_ne_rotateLeft n⟩, fun b => ?_, fun c => ?_⟩
  · obtain ⟨c, hc⟩ := hs1.surjective (s2 b)
    exact ⟨c, ss1_eq_rotateRight hc.symm⟩
  · obtain ⟨b, hb⟩ := hs2.surjective (s1 c)
    exact ⟨b, ss1_eq_rotateRight hb⟩

/-! ### The closed form of the byte tables (R88). -/

theorem byteTables_eq_closedForm : ∀ b : Byte, s1 b = s1Closed b ∧ s2 b = s2Closed b := by
  decide +kernel

/-- Settles O22: the listings against the closed form at each byte, and each listing reaches every byte. -/
theorem byteTablesInClosedForm : Obligations.ByteTablesInClosedForm :=
  ⟨byteTables_eq_closedForm, byteTables_bijective⟩

end Sys2Proof.Machine
end

section
/-! PROOFS. The family of 41_loaders.md: what a load answers (O25). That it ends well and what it reads stand in the
families above (`load_exists_ok`, `loadReadsOnlyItsBytes`). -/

namespace Sys2Proof.Machine

/-- The big-endian word of the four bytes from offset `a` (R40, R46). -/
def Inputs.wordAt (inp : Inputs) (sp : Space) (a : Nat) : Word :=
  be32 (inp.byteAt sp a) (inp.byteAt sp (a + 1)) (inp.byteAt sp (a + 2)) (inp.byteAt sp (a + 3))

/-- Item `i` of a space: the four words that stand one after the other from offset `16·i` (R45, R90). -/
def Inputs.itemAt (inp : Inputs) (sp : Space) (i : Nat) : Quad :=
  { w1 := inp.wordAt sp (16 * i)
    w2 := inp.wordAt sp (16 * i + 4)
    w3 := inp.wordAt sp (16 * i + 8)
    w4 := inp.wordAt sp (16 * i + 12) }

theorem readItem_of_le {inp : Inputs} {sp : Space} {i : Nat} (h : 16 * i + 16 ≤ inp.len sp) :
    inp.readItem sp i = .ok (inp.itemAt sp i) := by
  have hword : ∀ a, a + 4 ≤ 16 * i + 16 → inp.readWord sp a = .ok (inp.wordAt sp a) := fun a ha =>
    readWord_of_le (by omega)
  rw [Inputs.readItem, hword _ (by omega), hword _ (by omega), hword _ (by omega), hword _ (by omega)]
  rfl

/-- A load of items that all lie below the length answers them in order (R90). -/
theorem load_of_le {inp : Inputs} {sp : Space} {n : Nat} (h : 16 * n ≤ inp.len sp) :
    inp.load sp n = .ok ((List.range n).map (inp.itemAt sp)) := by
  refine forEach_range_ok (by simp) fun i hi => ?_
  have hin : i < n := by simpa using hi
  rw [List.getElem_map, List.getElem_range]
  exact readItem_of_le (by omega)

/-- Settles O25: a written byte is read as written, and item `i` of the load is `Inputs.itemAt`, the words of the
statement. -/
theorem loadReadsBigEndianWords : Obligations.LoadReadsBigEndianWords :=
  fun _ _ _ h => ⟨fun _ _ => Inputs.byteAt_written, load_of_le h⟩

end Sys2Proof.Machine
end

section
/-! PROOFS. The family of 42_key_schedule.md: the rotations of a key round (O28), one key step (O29) and `KeyAdvanceTo`
(O30). The rotations as rotations of 64-bit pairs stand in the laws (`rotateOdd_pair`, `rotateEven_pair`). -/

namespace Sys2Proof.Machine

/-! ### The rotations (R97 to R99). -/

@[simp] theorem rotateKey_zero (k : Quad) : rotateKey 0 k = k := rfl

theorem rotateKey_of_odd {r : Round} (hodd : r.val % 2 = 1) (k : Quad) : rotateKey r k = rotateOdd k := by
  rw [rotateKey, if_neg (by omega), if_pos hodd]

theorem rotateKey_of_even {r : Round} (heven : r.val % 2 = 0) (hr : r.val ≠ 0) (k : Quad) :
    rotateKey r k = rotateEven k := by
  rw [rotateKey, if_neg hr, if_neg (by omega)]

/-- The operands of the shift formulas: the one clears the bits from 24 on, the other those below (R97). -/
theorem ushiftRight_and_shiftLeft_eq_zero (x y : Word) : (x >>> 8) &&& (y <<< 24) = 0#32 := by
  apply BitVec.eq_of_getLsbD_eq
  intro i hi
  rw [BitVec.getLsbD_and, BitVec.getLsbD_ushiftRight, BitVec.getLsbD_shiftLeft, BitVec.getLsbD_zero]
  by_cases hlow : i < 24
  · simp [hlow]
  · simp [BitVec.getLsbD_of_ge x (8 + i) (by omega)]

/-- Settles O28: each round takes the rotation of its parity, which is the rotation of a 64-bit pair. -/
theorem keyRotations : Obligations.KeyRotations := by
  refine ⟨rotateKey_zero, fun r k hodd => ?_, fun r k heven hr => ?_⟩
  · rw [rotateKey_of_odd hodd]
    exact ⟨rfl, rotateOdd_pair k, ushiftRight_and_shiftLeft_eq_zero _ _, ushiftRight_and_shiftLeft_eq_zero _ _⟩
  · rw [rotateKey_of_even heven hr]
    exact ⟨rfl, rotateEven_pair k⟩

/-! ### The key columns by index (R11, R13). -/

theorem readNk_eq_ok {s : State} {n : Nat} : s.readNk = .ok n ↔ s.nk = some n := by
  rw [State.readNk]
  split <;> simp [*]

theorem keyLoaded_of_readKey {s : State} {i : Nat} {k : Quad} (h : s.readKey i = .ok k) : s.keyLoaded = true := by
  by_contra hoff
  rw [State.readKey, if_neg hoff] at h
  cases h

/-- The state after `KeyStep(r)` has rotated the keys `ks` (R97 to R103). -/
def State.keyStepped (r : Round) (ks : List Quad) (s : State) : State :=
  { (s.setKeys (ks.map (rotateKey r))).setSubkeys ((ks.map (rotateKey r)).map (subkeyPair r)) with keyRound := some r }

/-- All that `KeyStep(r)` can do: it reads a key for every index, and rotates them (R97 to R103). -/
theorem keyStep_eq_ok {r : Round} {s t : State} :
    s.keyStep r = .ok t ↔ ∃ ks : List Quad, s.nk = some ks.length ∧
      (∀ i (h : i < ks.length), s.readKey i = .ok ks[i]) ∧ t = s.keyStepped r ks := by
  simp only [State.keyStep, bind_eq_ok, readNk_eq_ok, forEach_range_eq_ok, Except.ok.injEq]
  constructor
  · rintro ⟨_, hn, ks, ⟨rfl, hread⟩, rfl⟩
    exact ⟨ks, hn, hread, rfl⟩
  · rintro ⟨ks, hn, hread, rfl⟩
    exact ⟨ks.length, hn, ks, ⟨rfl, hread⟩, rfl⟩

section
variable {s : State} (r : Round) {ks : List Quad} {i : Nat}

theorem keyStepped_readKey (hkey : s.keyLoaded = true) (hi : i < ks.length) :
    (s.keyStepped r ks).readKey i = .ok (rotateKey r ks[i]) := by
  simp [State.readKey, State.keyStepped, hkey, hi]

theorem keyStepped_ks0 (hi : i < ks.length) :
    (s.keyStepped r ks).ks0[i]? = some (some (subkeyPair r (rotateKey r ks[i])).1) := by
  simp [State.keyStepped, hi]

theorem keyStepped_ks1 (hi : i < ks.length) :
    (s.keyStepped r ks).ks1[i]? = some (some (subkeyPair r (rotateKey r ks[i])).2) := by
  simp [State.keyStepped, hi]

end

/-- Settles O29: `keyStep_eq_ok`, and what `State.keyStepped` holds at each key index. -/
theorem keyStepDerivesTheSubkeys : Obligations.KeyStepDerivesTheSubkeys := by
  intro s t r h
  obtain ⟨ks, hn, hread, rfl⟩ := keyStep_eq_ok.mp h
  refine ⟨rfl, ks.length, hn, fun i hi => ?_⟩
  have hkey : s.keyLoaded = true := keyLoaded_of_readKey (hread i hi)
  exact ⟨ks[i], rotateKey r ks[i], hread i hi, keyStepped_readKey r hkey hi, rfl, keyStepped_ks0 r hi,
    keyStepped_ks1 r hi, sub_add_eq_add_sub _ _ _⟩

/-! ### The registers of the key part (R95, R96). -/

/-- `s` with the key part of `u`: the key columns, the subkeys, `NK`, `KEY_LOADED` and `KEY_ROUND`. -/
def State.withKeyPart (s u : State) : State :=
  { s with k1 := u.k1, k2 := u.k2, k3 := u.k3, k4 := u.k4, ks0 := u.ks0, ks1 := u.ks1, nk := u.nk,
           keyLoaded := u.keyLoaded, keyRound := u.keyRound }

/-- `t` differs from `s` in the key part alone. -/
def State.SameButKeyPart (s t : State) : Prop := t = s.withKeyPart t

theorem sameButKeyPart_refl (s : State) : s.SameButKeyPart s := rfl

theorem sameButKeyPart_trans {s t u : State} (hst : s.SameButKeyPart t) (htu : t.SameButKeyPart u) :
    s.SameButKeyPart u :=
  calc u = t.withKeyPart u := htu
    _ = (s.withKeyPart t).withKeyPart u := congrArg (fun x => x.withKeyPart u) hst
    _ = s.withKeyPart u := rfl

theorem keyLoad_sameButKeyPart {s t : State} (h : s.keyLoad = .ok t) : s.SameButKeyPart t := by
  obtain ⟨qs, -, ht⟩ := bind_eq_ok.mp h
  obtain rfl := Except.ok.inj ht
  rfl

theorem keyStep_sameButKeyPart {r : Round} {s t : State} (h : s.keyStep r = .ok t) : s.SameButKeyPart t := by
  obtain ⟨ks, -, -, rfl⟩ := keyStep_eq_ok.mp h
  rfl

theorem keySteps_sameButKeyPart {rs : List Round} {s t : State} (h : s.keySteps rs = .ok t) : s.SameButKeyPart t := by
  induction rs generalizing s with
  | nil =>
    obtain rfl := Except.ok.inj h
    exact sameButKeyPart_refl s
  | cons r rs ih =>
    obtain ⟨u, hu, ht⟩ := bind_eq_ok.mp h
    exact sameButKeyPart_trans (keyStep_sameButKeyPart hu) (ih ht)

theorem keyAdvanceTo_sameButKeyPart {kr : Round} {s t : State} (h : s.keyAdvanceTo kr = .ok t) :
    s.SameButKeyPart t := by
  rcases keyAdvanceTo_cases kr s with ⟨-, h'⟩ | h' | h' <;> rw [h'] at h
  · obtain rfl := Except.ok.inj h
    exact sameButKeyPart_refl s
  · obtain ⟨u, hload, hsteps⟩ := bind_eq_ok.mp h
    exact sameButKeyPart_trans (keyLoad_sameButKeyPart hload) (keySteps_sameButKeyPart hsteps)
  · exact keySteps_sameButKeyPart h

/-! ### The round that `KeyAdvanceTo` ends at (R95). -/

theorem keyLoad_keyRound {s t : State} (h : s.keyLoad = .ok t) : t.keyRound = none := by
  obtain ⟨qs, -, ht⟩ := bind_eq_ok.mp h
  obtain rfl := Except.ok.inj ht
  rfl

theorem keyStep_keyRound {r : Round} {s t : State} (h : s.keyStep r = .ok t) : t.keyRound = some r := by
  obtain ⟨ks, -, -, rfl⟩ := keyStep_eq_ok.mp h
  rfl

/-- Key steps end at the last of their rounds. -/
theorem keySteps_keyRound {rs : List Round} {s t : State} (h : s.keySteps rs = .ok t) :
    t.keyRound = rs.getLast?.or s.keyRound := by
  induction rs generalizing s with
  | nil =>
    obtain rfl := Except.ok.inj h
    rfl
  | cons r rs ih =>
    obtain ⟨u, hu, ht⟩ := bind_eq_ok.mp h
    rw [ih ht, keyStep_keyRound hu]
    cases rs <;> simp [List.getLast?_cons]

theorem roundsAfter_getLast? : ∀ (p : Option Round) (kr : Round), tagVal p ≤ kr.val →
    (roundsAfter p kr).getLast?.or p = some kr := by decide

/-- The steps after a round at or before `kr` end at `kr`. -/
theorem keySteps_roundsAfter_keyRound {s t : State} {kr : Round} (hle : tagVal s.keyRound ≤ kr.val)
    (h : s.keySteps (roundsAfter s.keyRound kr) = .ok t) : t.keyRound = some kr :=
  (keySteps_keyRound h).trans (roundsAfter_getLast? s.keyRound kr hle)

/-- A round behind `KEY_ROUND` is reached from −1, by a rewind; a round ahead of it is reached from `KEY_ROUND`. -/
theorem keyAdvanceTo_keyRound {kr : Round} {s t : State} (h : s.keyAdvanceTo kr = .ok t) : t.keyRound = some kr := by
  rw [State.keyAdvanceTo] at h
  split at h
  next heq =>
    obtain rfl := Except.ok.inj h
    exact heq
  next =>
    split at h
    next =>
      obtain ⟨u, hload, hsteps⟩ := bind_eq_ok.mp h
      have hu : u.keyRound = none := keyLoad_keyRound hload
      exact keySteps_roundsAfter_keyRound (by simp only [hu, tagVal]; omega) hsteps
    next hge => exact keySteps_roundsAfter_keyRound (Int.not_lt.mp hge) h

/-- Settles O30: `keyAdvanceTo_keyRound` and `keyAdvanceTo_sameButKeyPart`. -/
theorem keyScheduleWritesTheKeyPart : Obligations.KeyScheduleWritesTheKeyPart :=
  fun _ _ _ h => ⟨keyAdvanceTo_keyRound h, keyAdvanceTo_sameButKeyPart h⟩

end Sys2Proof.Machine
end

section
/-! PROOFS. The family of 43_round_engine.md: the nine steps (O31), a full round (O32), a round done twice (O33), and
the rounds as the textbook Feistel recursion (O34). -/

namespace Sys2Proof.Machine

/-! ### The names of a round, by parity (R111). -/

theorem renamed_of_even {r : Round} (heven : r.val % 2 = 0) (q : Quad) : q.renamed r = q := by
  rw [Quad.renamed, if_pos heven]

theorem renamed_of_odd {r : Round} (hodd : ¬ r.val % 2 = 0) (q : Quad) :
    q.renamed r = { w1 := q.w3, w2 := q.w4, w3 := q.w1, w4 := q.w2 } := by
  rw [Quad.renamed, if_neg hodd]

theorem renamed_eq_iff {r : Round} {q a : Quad} : q.renamed r = a ↔ q = a.renamed r := by
  constructor <;> rintro rfl <;> simp

/-! ### What a round does to the named columns of one block (R112 to R122, R126). -/

@[simp] theorem applyRound_w3 (x : Temps) (a : Quad) : (applyRound x a).w3 = a.w3 := rfl
@[simp] theorem applyRound_w4 (x : Temps) (a : Quad) : (applyRound x a).w4 = a.w4 := rfl

/-- The pair `(x8, x7)` is the F-function at the subkeys and `a3`, `a4` (R120). -/
theorem roundSteps_eq_fValue (k0 k1 c d : Word) :
    ((roundSteps k0 k1 c d).x8, (roundSteps k0 k1 c d).x7) = fValue k0 k1 c d := by
  simp only [roundSteps, fValue, BitVec.xor_comm (d ^^^ k1)]

/-- Steps 1 to 11 in closed form (R126). -/
theorem applyRound_roundSteps (k0 k1 : Word) (a : Quad) :
    applyRound (roundSteps k0 k1 a.w3 a.w4) a =
      { a with w1 := a.w1 ^^^ (fValue k0 k1 a.w3 a.w4).1, w2 := a.w2 ^^^ (fValue k0 k1 a.w3 a.w4).2 } := by
  rw [← roundSteps_eq_fValue]
  rfl

/-! ### The reads of a round that end well (R10 to R14, R123). -/

theorem readNv_eq_ok {s : State} {n : Nat} : s.readNv = .ok n ↔ s.nv = some n := by
  rw [State.readNv]
  split <;> simp [*]

theorem readBlock_eq_ok {s : State} {i : Nat} {q : Quad} :
    s.readBlock i = .ok q ↔ s.blkLoaded = true ∧
      s.v1[i]? = some q.w1 ∧ s.v2[i]? = some q.w2 ∧ s.v3[i]? = some q.w3 ∧ s.v4[i]? = some q.w4 := by
  constructor
  · intro h
    rw [State.readBlock] at h
    split at h
    next hon =>
      split at h
      next h1 h2 h3 h4 =>
        obtain rfl := Except.ok.inj h
        exact ⟨hon, h1, h2, h3, h4⟩
      next => cases h
    next => cases h
  · rintro ⟨hon, h1, h2, h3, h4⟩
    simp only [State.readBlock, hon, h1, h2, h3, h4, if_true]

theorem readNamed_eq_ok {s : State} {r : Round} {i : Nat} {a : Quad} :
    s.readNamed r i = .ok a ↔ s.readBlock i = .ok (a.renamed r) := by
  simp only [State.readNamed, bind_eq_ok, Except.ok.injEq, renamed_eq_iff, exists_eq_right]

theorem subkeys_of_readSubkeys {s : State} {j : Nat} {k : Word × Word} (h : s.readSubkeys j = .ok k) :
    s.ks0[j]? = some (some k.1) ∧ s.ks1[j]? = some (some k.2) := by
  rw [State.readSubkeys] at h
  split at h
  next =>
    split at h
    next h0 h1 =>
      obtain rfl := Except.ok.inj h
      exact ⟨h0, h1⟩
    next => cases h
  next => cases h

/-- All that steps 1 to 9 read of a block: its named columns and the subkeys of its key index. -/
theorem blockSteps_eq_ok {s : State} {r : Round} {i : Nat} {a : Quad} {x : Temps} :
    s.blockSteps r i = .ok (a, x) ↔ ∃ k, s.Sees r i a k ∧ x = roundSteps k.1 k.2 a.w3 a.w4 := by
  simp only [State.blockSteps, State.Sees, bind_eq_ok, readNv_eq_ok, readNk_eq_ok, Except.ok.injEq, Prod.mk.injEq]
  constructor
  · rintro ⟨nv, hnv, nk, hnk, a, ha, k, hk, rfl, rfl⟩
    exact ⟨k, ⟨ha, nv, nk, hnv, hnk, hk⟩, rfl⟩
  · rintro ⟨k, ⟨ha, nv, nk, hnv, hnk, hk⟩, rfl⟩
    exact ⟨nv, hnv, nk, hnk, a, ha, k, hk, rfl, rfl⟩

/-- Settles O31: what the steps read is `State.Sees`, and the nine values are those of `roundSteps`. -/
theorem roundStepsFollowTheList : Obligations.RoundStepsFollowTheList := by
  intro s r i a x h
  obtain ⟨⟨k0, k1⟩, ⟨hread, nv, nk, hnv, hnk, hkeys⟩, rfl⟩ := blockSteps_eq_ok.mp h
  obtain ⟨hk0, hk1⟩ := subkeys_of_readSubkeys hkeys
  obtain ⟨-, h1, h2, h3, h4⟩ := readBlock_eq_ok.mp (readNamed_eq_ok.mp hread)
  have hcols : (if r.val % 2 = 0 then s.v3[i]? else s.v1[i]?) = some a.w3 ∧
      (if r.val % 2 = 0 then s.v4[i]? else s.v2[i]?) = some a.w4 := by
    split
    next heven => exact ⟨by rw [h3, renamed_of_even heven], by rw [h4, renamed_of_even heven]⟩
    next hodd => exact ⟨by rw [h1, renamed_of_odd hodd], by rw [h2, renamed_of_odd hodd]⟩
  obtain ⟨hc3, hc4⟩ := hcols
  exact ⟨nv, nk, k0, k1, hnv, hnk, hk0, hk1, hc3, hc4, rfl, rfl, rfl, rfl, rfl, rfl, rfl, rfl, rfl⟩

/-! ### A full round over all blocks (R126, R145). -/

/-- The state after `RoundFull(r)` whose steps 1 to 9 gave `xs`. -/
def State.roundDone (r : Round) (xs : List (Quad × Temps)) (s : State) : State :=
  { s.applyAll r xs with blockRound := some r }

/-- All that `RoundFull(r)` can do: steps 1 to 9 for every block, then steps 10 and 11. -/
theorem roundFull_eq_ok {r : Round} {s t : State} :
    s.roundFull r = .ok t ↔ ∃ xs : List (Quad × Temps), s.nv = some xs.length ∧
      (∀ i (h : i < xs.length), s.blockSteps r i = .ok xs[i]) ∧ t = s.roundDone r xs := by
  simp only [State.roundFull, State.allSteps, bind_eq_ok, readNv_eq_ok, forEach_range_eq_ok, Except.ok.injEq]
  constructor
  · rintro ⟨xs, ⟨_, hn, rfl, hsteps⟩, rfl⟩
    exact ⟨xs, hn, hsteps, rfl⟩
  · rintro ⟨xs, hn, hsteps, rfl⟩
    exact ⟨xs, ⟨xs.length, hn, rfl, hsteps⟩, rfl⟩

theorem eq_map_of_getElem? {α β : Type} {v : List β} {qs : List α} {w : α → β} (hl : v.length = qs.length)
    (h : ∀ i (hi : i < qs.length), v[i]? = some (w qs[i])) : v = qs.map w := by
  refine List.ext_getElem (by rw [hl, List.length_map]) fun i hi _ => ?_
  rw [List.getElem_map, ← Option.some_inj, ← h i (hl ▸ hi), List.getElem?_eq_getElem hi]

/-- In a sound state the reads of all blocks give the whole block columns (R18 item 3). -/
theorem holdsBlocks_of_wf {s : State} (h : s.Wf) {qs : List Quad} (hn : s.nv = some qs.length)
    (hread : ∀ i (hi : i < qs.length), s.readBlock i = .ok qs[i]) : s.HoldsBlocks qs := by
  have hon : s.blkLoaded = true := by
    by_contra hoff
    obtain ⟨-, -, -, -, hnone, -⟩ := h.blkOff (Bool.eq_false_iff.mpr hoff)
    rw [hnone] at hn
    cases hn
  obtain ⟨n, hn', -, hl1, hl2, hl3, hl4⟩ := h.blkOn hon
  obtain rfl : n = qs.length := Option.some.inj (hn'.symm.trans hn)
  have hcol : ∀ {v : List Word} {w : Quad → Word}, v.length = qs.length →
      (∀ {i q}, s.readBlock i = .ok q → v[i]? = some (w q)) → v = qs.map w := fun hl hv =>
    eq_map_of_getElem? hl fun i hi => hv (hread i hi)
  refine ⟨hon, hn, hcol hl1 fun hq => ?_, hcol hl2 fun hq => ?_, hcol hl3 fun hq => ?_, hcol hl4 fun hq => ?_⟩ <;>
    simp only [readBlock_eq_ok.mp hq]

theorem setBlocks_of_holdsBlocks {s : State} {qs : List Quad} (h : s.HoldsBlocks qs) : s.setBlocks qs = s := by
  obtain ⟨-, -, h1, h2, h3, h4⟩ := h
  rw [State.setBlocks, ← h1, ← h2, ← h3, ← h4]

/-- A full round of a sound state: the columns before it, and what steps 1 to 9 gave. -/
theorem roundFull_wf_cases {r : Round} {s t : State} (h : s.Wf) (hround : s.roundFull r = .ok t) :
    ∃ xs : List (Quad × Temps), s.HoldsBlocks (xs.map fun p => p.1.renamed r) ∧
      (∀ i (h : i < xs.length), s.blockSteps r i = .ok xs[i]) ∧ t = s.roundDone r xs := by
  obtain ⟨xs, hn, hsteps, rfl⟩ := roundFull_eq_ok.mp hround
  refine ⟨xs, holdsBlocks_of_wf h (by simpa using hn) fun i hi => ?_, hsteps, rfl⟩
  have hi' : i < xs.length := by simpa using hi
  obtain ⟨k, ⟨hread, -⟩, -⟩ := blockSteps_eq_ok.mp (hsteps i hi')
  simpa using readNamed_eq_ok.mp hread

section
variable {s : State} {r : Round} {xs : List (Quad × Temps)}

@[simp] theorem State.roundDone_nv (r : Round) (xs : List (Quad × Temps)) (s : State) :
    (s.roundDone r xs).nv = s.nv := rfl

/-- The columns of every block after the round. -/
theorem roundDone_holdsBlocks (h : s.HoldsBlocks (xs.map fun p => p.1.renamed r)) :
    (s.roundDone r xs).HoldsBlocks (xs.map fun p => (applyRound p.2 p.1).renamed r) := by
  obtain ⟨hon, hn, -⟩ := h
  exact ⟨hon, by simpa [State.roundDone, State.applyAll] using hn, rfl, rfl, rfl, rfl⟩

/-- The named columns of a block after the round. -/
theorem roundDone_readNamed (h : s.HoldsBlocks (xs.map fun p => p.1.renamed r)) {i : Nat} (hi : i < xs.length) :
    (s.roundDone r xs).readNamed r i = .ok (applyRound xs[i].2 xs[i].1) := by
  have hread := readNamed_ok (roundDone_holdsBlocks h) r i (by simpa using hi)
  rwa [List.getElem_map, renamed_renamed] at hread

/-- The columns named `a3` and `a4` stay, as registers (R126). -/
theorem roundDone_keeps (h : s.HoldsBlocks (xs.map fun p => p.1.renamed r)) :
    if r.val % 2 = 0 then (s.roundDone r xs).v3 = s.v3 ∧ (s.roundDone r xs).v4 = s.v4
    else (s.roundDone r xs).v1 = s.v1 ∧ (s.roundDone r xs).v2 = s.v2 := by
  obtain ⟨-, -, h1, h2, h3, h4⟩ := h
  rw [h1, h2, h3, h4]
  by_cases heven : r.val % 2 = 0
  · simp [heven, State.roundDone, State.applyAll, renamed_of_even heven, Function.comp_def]
  · simp [heven, State.roundDone, State.applyAll, renamed_of_odd heven, Function.comp_def]

/-- Steps 1 to 9 after the round, at the same subkeys: `a3` and `a4` stay, so the temporaries do too (R127). -/
theorem roundDone_blockSteps (h : s.HoldsBlocks (xs.map fun p => p.1.renamed r)) {i : Nat} (hi : i < xs.length)
    (hsteps : s.blockSteps r i = .ok xs[i]) :
    (s.roundDone r xs).blockSteps r i = .ok (applyRound xs[i].2 xs[i].1, xs[i].2) := by
  obtain ⟨k, ⟨-, hkeys⟩, hx⟩ := blockSteps_eq_ok.mp hsteps
  exact blockSteps_eq_ok.mpr ⟨k, ⟨roundDone_readNamed h hi, hkeys⟩, hx⟩

/-- Steps 10 and 11 once more, with the same temporaries, give the columns back (R127). -/
theorem roundDone_roundDone (h : s.HoldsBlocks (xs.map fun p => p.1.renamed r)) :
    (s.roundDone r xs).roundDone r (xs.map fun p => (applyRound p.2 p.1, p.2)) = { s with blockRound := some r } :=
  calc (s.roundDone r xs).roundDone r (xs.map fun p => (applyRound p.2 p.1, p.2))
    _ = { s.setBlocks (xs.map fun p => p.1.renamed r) with blockRound := some r } := by
      simp only [State.roundDone, State.applyAll, List.map_map, Function.comp_def, applyRound_applyRound]
      rfl
    _ = { s with blockRound := some r } := by rw [setBlocks_of_holdsBlocks h]

end

/-- Settles O32: the columns after the round are those that steps 10 and 11 make of the columns before it. -/
theorem roundFullUpdatesTwoColumns : Obligations.RoundFullUpdatesTwoColumns := by
  intro s t r hwf hround
  obtain ⟨xs, hblocks, hsteps, rfl⟩ := roundFull_wf_cases hwf hround
  have hn : s.nv = some xs.length := by
    obtain ⟨-, hn, -⟩ := hblocks
    simpa using hn
  refine ⟨rfl, roundDone_keeps hblocks, xs.length, hn, fun i hi => ?_⟩
  obtain ⟨k, hsees, hx⟩ : ∃ k, s.Sees r i xs[i].1 k ∧ xs[i].2 = roundSteps k.1 k.2 xs[i].1.w3 xs[i].1.w4 :=
    blockSteps_eq_ok.mp (hsteps i hi)
  refine ⟨xs[i].1, applyRound xs[i].2 xs[i].1, k, hsees, roundDone_readNamed hblocks hi, ?_⟩
  rw [hx, applyRound_roundSteps]
  exact ⟨rfl, rfl, rfl, rfl⟩

/-- Settles O33: the second round computes the temporaries of the first, and `⊕` with them undoes itself. -/
theorem roundUndoesItself : Obligations.RoundUndoesItself := by
  intro s t u r hwf hround hagain
  obtain ⟨xs, hblocks, hsteps, rfl⟩ := roundFull_wf_cases hwf hround
  have hn : (s.roundDone r xs).nv = some xs.length := by
    obtain ⟨-, hn, -⟩ := hblocks
    simpa using hn
  have hback : (s.roundDone r xs).roundFull r = .ok { s with blockRound := some r } := by
    rw [← roundDone_roundDone hblocks]
    refine roundFull_eq_ok.mpr ⟨_, by simpa using hn, fun i hi => ?_, rfl⟩
    have hi' : i < xs.length := by simpa using hi
    simpa using roundDone_blockSteps hblocks hi' (hsteps i hi')
  exact Except.ok.inj (hagain.symm.trans hback)

/-! ### The rounds as the textbook recursion (R110, R125). -/

/-- Two halves side by side, as the columns of a block. -/
def joined (h : (Word × Word) × (Word × Word)) : Quad :=
  { w1 := h.1.1, w2 := h.1.2, w3 := h.2.1, w4 := h.2.2 }

theorem joined_renamed_of_odd {r : Round} (hodd : ¬ r.val % 2 = 0) (h : (Word × Word) × (Word × Word)) :
    (joined h).renamed r = joined h.swap :=
  renamed_of_odd hodd (joined h)

/-- The names of the next round are those of this one with the halves exchanged (R111). -/
theorem joined_renamed_renamed {r r' : Round} (hr : r'.val = r.val + 1) (h : (Word × Word) × (Word × Word)) :
    ((joined h).renamed r).renamed r' = joined h.swap := by
  by_cases heven : r.val % 2 = 0
  · rw [renamed_of_even heven, joined_renamed_of_odd (by omega)]
  · rw [joined_renamed_of_odd heven, renamed_of_even (by omega)]

/-- Steps 1 to 11 on the halves `(L_n, R_n)` give `R_{n+1} = L_n ⊕ F` in place of `L_n`, beside `R_n = L_{n+1}`. -/
theorem applyRound_joined (d : Direction) (key q : Quad) (r : Round) :
    applyRound (tempsOf d key r ((joined (feistel d key q r.val)).renamed r)) (joined (feistel d key q r.val)) =
      joined (feistel d key q (r.val + 1)).swap := by
  have hround : Fin.ofNat 16 r.val = r := Fin.ofNat_val_eq_self r
  rw [tempsOf, renamed_renamed, applyRound_roundSteps, feistel, hround]
  rfl

/-- One round of the recursion: if the halves stand under the names of round `r`, they stand exchanged after it. -/
theorem blockAfter_some_renamed_of_before {d : Direction} {key q : Quad} {r : Round}
    (h : (blockAfter d key (before r) q).renamed r = joined (feistel d key q r.val)) :
    (blockAfter d key (some r) q).renamed r = joined (feistel d key q (r.val + 1)).swap := by
  rw [blockAfter_some, renamed_eq_iff.mp h, roundOf, renamed_renamed, renamed_renamed, applyRound_joined]

theorem before_of_val_eq_succ : ∀ {r r' : Round}, r'.val = r.val + 1 → before r' = some r := by decide

/-- Before round `r` the names `(a1, a2)` and `(a3, a4)` of the round stand for `L_r` and `R_r` (R125). -/
theorem blockAfter_before_renamed (d : Direction) (key q : Quad) (r : Round) :
    (blockAfter d key (before r) q).renamed r = joined (feistel d key q r.val) := by
  obtain ⟨n, hn⟩ := r
  induction n with
  | zero => rfl
  | succ n ih =>
    have hafter := blockAfter_some_renamed_of_before (ih (by omega))
    rw [before_of_val_eq_succ (r := ⟨n, by omega⟩) rfl, renamed_eq_iff.mp hafter, joined_renamed_renamed rfl,
      Prod.swap_swap]

/-- After round `r` the names `(a1, a2)` and `(a3, a4)` of the round stand for `R_{r+1}` and `L_{r+1}` (R125). -/
theorem blockAfter_some_renamed (d : Direction) (key q : Quad) (r : Round) :
    (blockAfter d key (some r) q).renamed r = joined (feistel d key q (r.val + 1)).swap :=
  blockAfter_some_renamed_of_before (blockAfter_before_renamed d key q r)

/-- Settles O34: `blockAfter_some_renamed`, with the names resolved by parity; the output order is that of the names. -/
theorem roundsAreTheFeistelRecursion : Obligations.RoundsAreTheFeistelRecursion := by
  intro d key q r
  have hblock := renamed_eq_iff.mp (blockAfter_some_renamed d key q r)
  rw [← and_assoc]
  refine ⟨?_, blockAfter_some_renamed d key q 15⟩
  by_cases heven : r.val % 2 = 0
  · rw [if_pos heven, if_pos heven, hblock, renamed_of_even heven]
    exact ⟨rfl, rfl⟩
  · rw [if_neg heven, if_neg heven, hblock, joined_renamed_of_odd heven, Prod.swap_swap]
    exact ⟨rfl, rfl⟩

end Sys2Proof.Machine
end

section
/-! PROOFS. The family of 44_driver.md, its checks and its resets: `RESET` (O16), the direction switch (O11), the shape
and the capacity (O12, O13), and a request at or behind the position (O44).

`runExecute_cases` says what an `EXECUTE` can do; the first lemmas read it the other way, from the operands to the
course. -/

namespace Sys2Proof.Machine

/-! ### Which course an `EXECUTE` takes (R131, R132, R167). -/

section
variable {s : State} {dec : Bool} {rnd : Nat} (cut : Round → State → Except Fault State)

/-- An error leaves a fresh engine with the same inputs and the direction of the state it is raised in (R168, R186). -/
theorem raise_eq_hreset (e : ErrCode) (s : State) :
    s.raise e = { s.hreset s.inp with dir := s.dir, err := e } := rfl

theorem not_free_of_switch (hd : s.dir = some (Direction.ofDec (!dec))) :
    ¬ (s.dir = none ∨ s.dir = some (Direction.ofDec dec)) := by
  simp [hd, (ofDec_ne_ofDec_not dec).symm]

theorem eq_ofDec_not_of_ne {d : Direction} (h : d ≠ Direction.ofDec dec) : d = Direction.ofDec (!dec) := by
  have hall : ∀ (d : Direction) (dec : Bool), d = Direction.ofDec dec ∨ d = Direction.ofDec (!dec) := by
    intro d dec
    cases d <;> cases dec <;> simp [Direction.ofDec]
  exact (hall d dec).resolve_left h

/-- Another direction than the frozen one (R131, R163). -/
theorem runExecute_switch (hd : s.dir = some (Direction.ofDec (!dec))) :
    runExecute dec rnd cut s = .next (s.raise .directionSwitch) := by
  rcases runExecute_cases dec rnd cut s with ⟨_, -, -, h⟩ | ⟨hfree, -⟩
  · exact h
  · exact absurd hfree (not_free_of_switch hd)

/-- A direction that is none or the same is no switch (R131). -/
theorem not_switch_of_free (hd : s.dir = none ∨ s.dir = some (Direction.ofDec dec)) :
    ¬ ∃ d, s.dir = some d ∧ d ≠ Direction.ofDec dec := by
  rintro ⟨d, hsome, hne⟩
  rcases hd with hd | hd <;> rw [hsome] at hd
  · cases hd
  · exact hne (Option.some.inj hd)

/-- A failed shape check (R161). -/
theorem runExecute_badShape (hd : s.dir = none ∨ s.dir = some (Direction.ofDec dec))
    (hbad : rnd < 1 ∨ 16 < rnd ∨ s.inp.shapeOk = false) :
    runExecute dec rnd cut s = .next (State.raise .inputShape { s with dir := some (Direction.ofDec dec) }) := by
  rcases runExecute_cases dec rnd cut s with
    ⟨d, hsome, hne, -⟩ | ⟨-, ⟨-, h⟩ | ⟨h1, h2, hs, -⟩ | ⟨round, hr, hs, -⟩⟩
  · exact absurd ⟨d, hsome, hne⟩ (not_switch_of_free hd)
  · exact h
  · simp only [hs, reduceCtorEq, or_false] at hbad
    omega
  · have := round.isLt
    simp only [hs, reduceCtorEq, or_false] at hbad
    omega

/-- A failed capacity check (R165). -/
theorem runExecute_tooMany (hd : s.dir = none ∨ s.dir = some (Direction.ofDec dec)) (h1 : 1 ≤ rnd) (h2 : rnd ≤ 16)
    (hs : s.inp.shapeOk = true) (hn : s.cfg.nmax < itemCount s.inp.vlen) :
    runExecute dec rnd cut s = .next (State.raise .allocFail { s with dir := some (Direction.ofDec dec) }) := by
  rcases runExecute_cases dec rnd cut s with
    ⟨d, hsome, hne, -⟩ | ⟨-, ⟨hbad, -⟩ | ⟨-, -, -, -, h⟩ | ⟨_, -, -, hle, -⟩⟩
  · exact absurd ⟨d, hsome, hne⟩ (not_switch_of_free hd)
  · simp only [hs, reduceCtorEq, or_false] at hbad
    omega
  · exact h
  · omega

/-- All checks passed: the common part runs, then the variant's own part (R130). -/
theorem runExecute_accepted {round : Round} (hacc : s.Accepts dec (round.val + 1)) :
    runExecute dec (round.val + 1) cut s = settle (s.prefixOf dec round >>= cut round) := by
  obtain ⟨hd, h1, h2, hs, hn⟩ := hacc
  rcases runExecute_cases dec (round.val + 1) cut s with
    ⟨d, hsome, hne, -⟩ | ⟨-, ⟨hbad, -⟩ | ⟨-, -, -, hlt, -⟩ | ⟨r, hr, -, -, h⟩⟩
  · exact absurd ⟨d, hsome, hne⟩ (not_switch_of_free hd)
  · simp only [hs, reduceCtorEq, or_false] at hbad
    omega
  · omega
  · obtain rfl : r = round := Fin.ext (by omega)
    exact h

end

/-- The shape checks as the statements write them (R161). -/
theorem shapeOk_iff (inp : Inputs) : inp.shapeOk = true ↔
    inp.vlen % 16 = 0 ∧ inp.klen % 16 = 0 ∧ (inp.klen / 16 = 1 ∨ inp.klen / 16 = inp.vlen / 16) := by
  rw [Inputs.shapeOk]
  exact decide_eq_true_iff

/-! ### `RESET` and the errors (O11 to O13, O16). -/

/-- Settles O16: the word of `RESET` is 0, and every register of the state it leaves is given by the definition. -/
theorem resetDropsThePrefix : Obligations.ResetDropsThePrefix := by
  refine ⟨rfl, fun w hw => ?_, fun s => ⟨{ s.engineReset with err := .ok }, rfl, ?_⟩⟩
  · have hmask : w &&& 0xFFFF#16 = w := BitVec.and_allOnes
    exact (decode_eq_reset_iff w).mpr (hmask ▸ hw)
  · exact ⟨rfl, rfl, rfl, rfl, rfl, rfl, rfl, rfl, rfl, rfl, rfl, rfl, rfl, rfl, rfl, rfl, rfl, rfl, rfl, rfl, rfl, rfl⟩

/-- Settles O11: the direction check is the first one (`runExecute_switch`). -/
theorem directionSwitchIsRefused : Obligations.DirectionSwitchIsRefused := by
  intro s st dec rnd hd
  rw [exec_ofStep, runExecute_switch _ hd, raise_eq_hreset]

/-- Settles O12: each of the four causes fails the shape check (`runExecute_badShape`). -/
theorem badShapeIsRefused : Obligations.BadShapeIsRefused := by
  intro s st dec rnd hd hbad
  have hshape : rnd < 1 ∨ 16 < rnd ∨ s.inp.shapeOk = false := by
    rw [← Bool.not_eq_true, shapeOk_iff]
    omega
  rw [exec_ofStep, runExecute_badShape _ hd hshape]
  rfl

/-- Settles O13: the capacity check comes after the shape check (`runExecute_tooMany`). -/
theorem tooManyBlocksAreRefused : Obligations.TooManyBlocksAreRefused := by
  intro s st dec rnd hd hv hk hc h1 h2 hn
  rw [exec_ofStep, runExecute_tooMany _ hd h1 h2 ((shapeOk_iff s.inp).mpr ⟨hv, hk, hc⟩) hn]
  rfl

/-! ### A request at or behind the position (O44). -/

/-- At or behind the position the rewind test resets the engine, and on a fresh engine it changes nothing (R133). -/
theorem rewindTest_of_behind {s : State} {round : Round} (h : tagVal s.blockRound ≥ (round.val : Int)) :
    s.rewindTest round = s.engineReset.rewindTest round := by
  have hfresh : s.engineReset.rewindTest round = s.engineReset := by
    rcases rewindTest_cases round s.engineReset with h' | h' <;> rw [h']
    rfl
  rw [hfresh, State.rewindTest, if_pos h]

theorem toCutPoint_of_behind {s : State} {round : Round} (h : tagVal s.blockRound ≥ (round.val : Int))
    (d : Direction) : s.toCutPoint d round = s.engineReset.toCutPoint d round := by
  rw [State.toCutPoint, State.toCutPoint, State.prepare, State.prepare, rewindTest_of_behind h]

/-- Settles O44: the checks do not see what is loaded and an error drops it; past the checks the rewind test drops it
(`toCutPoint_of_behind`). -/
theorem requestBehindThePositionStartsOver : Obligations.RequestBehindThePositionStartsOver := by
  intro s st dec round hpos
  rw [exec_ofStep, exec_ofStep]
  rcases runExecute_cases dec (round.val + 1) (cutOf st) s with
    ⟨d, hsome, hne, h⟩ | ⟨hd, ⟨hbad, h⟩ | ⟨h1, h2, hs, hn, h⟩ | ⟨r, hr, hs, hn, -⟩⟩
  · have hswitch : s.engineReset.dir = some (Direction.ofDec (!dec)) := by
      rw [State.engineReset_dir, hsome, eq_ofDec_not_of_ne hne]
    rw [h, runExecute_switch _ hswitch]
    rfl
  · rw [h, runExecute_badShape (s := s.engineReset) _ hd hbad]
    rfl
  · rw [h, runExecute_tooMany (s := s.engineReset) _ hd h1 h2 hs hn]
    rfl
  · have hacc : s.Accepts dec (round.val + 1) := ⟨hd, by omega, by omega, hs, hn⟩
    have hprefix : s.prefixOf dec round = s.engineReset.prefixOf dec round :=
      toCutPoint_of_behind (s := { s with dir := some (Direction.ofDec dec) }) hpos (Direction.ofDec dec)
    rw [runExecute_accepted _ hacc, runExecute_accepted (s := s.engineReset) _ hacc, hprefix]

end Sys2Proof.Machine
end

section
/-! PROOFS. The family of 44_driver.md, the position (O56). In every state, coherent or not, a command that ends without an
error has loaded both columns, done the rounds up to the one before its cut point, and brought the keys to the cut
point's key round; only the steps F and Output go on from there. -/

namespace Sys2Proof.Machine

/-- Both columns are loaded, and the blocks are at position `b` (R16, R17). -/
def State.LoadedAt (b : Option Round) (s : State) : Prop :=
  s.blkLoaded = true ∧ s.keyLoaded = true ∧ s.blockRound = b

section
variable {s t : State} {b : Option Round}

/-! ### The parts of the common part (R133 to R135). -/

theorem keyLoad_loadedAt (hb : s.blkLoaded = true) (hr : s.blockRound = b) (h : s.keyLoad = .ok t) : t.LoadedAt b := by
  obtain ⟨qs, -, ht⟩ := bind_eq_ok.mp h
  obtain rfl := Except.ok.inj ht
  exact ⟨hb, rfl, hr⟩

theorem keySteps_loadedAt {rs : List Round} (hs : s.LoadedAt b) (h : s.keySteps rs = .ok t) : t.LoadedAt b := by
  induction rs generalizing s with
  | nil =>
    obtain rfl := Except.ok.inj h
    exact hs
  | cons r rs ih =>
    obtain ⟨u, hu, ht⟩ := bind_eq_ok.mp h
    obtain ⟨ks, -, -, rfl⟩ := keyStep_eq_ok.mp hu
    have hstepped : (s.keyStepped r ks).LoadedAt b := hs
    exact ih hstepped ht

theorem keyAdvanceTo_loadedAt {kr : Round} (hs : s.LoadedAt b) (h : s.keyAdvanceTo kr = .ok t) : t.LoadedAt b := by
  rcases keyAdvanceTo_cases kr s with ⟨-, h'⟩ | h' | h' <;> rw [h'] at h
  · obtain rfl := Except.ok.inj h
    exact hs
  · obtain ⟨u, hload, hsteps⟩ := bind_eq_ok.mp h
    obtain ⟨hblk, -, hround⟩ := hs
    exact keySteps_loadedAt (keyLoad_loadedAt hblk hround hload) hsteps
  · exact keySteps_loadedAt hs h

theorem roundFull_loadedAt {r : Round} (hs : s.LoadedAt b) (h : s.roundFull r = .ok t) : t.LoadedAt (some r) := by
  obtain ⟨xs, -, -, rfl⟩ := roundFull_eq_ok.mp h
  obtain ⟨hblk, hkey, -⟩ := hs
  exact ⟨hblk, hkey, rfl⟩

/-- Full rounds end at the last of them (R134, R145). -/
theorem fullRounds_loadedAt {d : Direction} {rs : List Round} (hs : s.LoadedAt b) (h : s.fullRounds d rs = .ok t) :
    t.LoadedAt (rs.getLast?.or b) := by
  induction rs generalizing s b with
  | nil =>
    obtain rfl := Except.ok.inj h
    exact hs
  | cons r rs ih =>
    obtain ⟨u, hu, ht⟩ := bind_eq_ok.mp h
    obtain ⟨v, hkey, hround⟩ := bind_eq_ok.mp hu
    have hlast := ih (roundFull_loadedAt (keyAdvanceTo_loadedAt hs hkey) hround) ht
    cases rs <;> simpa [List.getLast?_cons] using hlast

theorem ensureBlocks_loaded (h : s.ensureBlocks = .ok t) : t.blkLoaded = true ∧ t.blockRound = s.blockRound := by
  rw [State.ensureBlocks] at h
  split at h
  next hon =>
    obtain rfl := Except.ok.inj h
    exact ⟨hon, rfl⟩
  next =>
    obtain ⟨qs, -, ht⟩ := bind_eq_ok.mp h
    obtain rfl := Except.ok.inj ht
    exact ⟨rfl, rfl⟩

theorem ensureKeys_loadedAt (hb : s.blkLoaded = true) (hr : s.blockRound = b) (h : s.ensureKeys = .ok t) :
    t.LoadedAt b := by
  rw [State.ensureKeys] at h
  split at h
  next hon =>
    obtain rfl := Except.ok.inj h
    exact ⟨hb, hon, hr⟩
  next => exact keyLoad_loadedAt hb hr h

/-- The rewind test leaves a position behind the cut point (R133). -/
theorem rewindTest_behind (round : Round) (s : State) : tagVal (s.rewindTest round).blockRound < (round.val : Int) := by
  rw [State.rewindTest]
  split
  next =>
    simp only [State.engineReset_blockRound, tagVal]
    omega
  next hlt => exact Int.not_le.mp hlt

theorem prepare_loadedAt {round : Round} (h : s.prepare round = .ok t) :
    ∃ b, tagVal b < (round.val : Int) ∧ t.LoadedAt b := by
  obtain ⟨u, hblocks, hkeys⟩ := bind_eq_ok.mp h
  obtain ⟨hblk, hround⟩ := ensureBlocks_loaded hblocks
  exact ⟨_, rewindTest_behind round s, ensureKeys_loadedAt hblk hround hkeys⟩

theorem roundsBetween_getLast? : ∀ (b : Option Round) (r : Round), tagVal b < r.val →
    (roundsBetween b r).getLast?.or b = before r := by decide

/-- Where the common part ends, in every state: at the position before the round, and at its key round (R134, R135). -/
theorem toCutPoint_loadedAt {d : Direction} {round : Round} (h : s.toCutPoint d round = .ok t) :
    t.LoadedAt (before round) ∧ t.keyRound = some (ksRound d round) := by
  obtain ⟨u, hprepare, hrest⟩ := bind_eq_ok.mp h
  obtain ⟨v, hrounds, hkey⟩ := bind_eq_ok.mp hrest
  obtain ⟨b, hb, hu⟩ := prepare_loadedAt hprepare
  have hv := fullRounds_loadedAt hu hrounds
  obtain ⟨-, -, hpos⟩ := hu
  rw [hpos, roundsBetween_getLast? b round hb] at hv
  exact ⟨keyAdvanceTo_loadedAt hv hkey, keyAdvanceTo_keyRound hkey⟩

/-! ### The own part of a variant (R145). -/

theorem cutOf_loadedAt {st : StepId} {round : Round} (hs : s.LoadedAt (before round)) (h : cutOf st round s = .ok t) :
    t.LoadedAt (positionAfter round st) ∧ t.keyRound = s.keyRound := by
  obtain ⟨hblk, hkey, -⟩ := id hs
  cases st with
  | out =>
    obtain ⟨u, hround, hrest⟩ := bind_eq_ok.mp h
    obtain ⟨xs, -, -, rfl⟩ := roundFull_eq_ok.mp hround
    obtain ⟨n, -, hread⟩ := bind_eq_ok.mp hrest
    obtain ⟨as, -, ht⟩ := bind_eq_ok.mp hread
    obtain rfl := Except.ok.inj ht
    exact ⟨⟨hblk, hkey, rfl⟩, rfl⟩
  | f =>
    obtain ⟨n, -, hsteps⟩ := bind_eq_ok.mp h
    obtain ⟨xs, -, ht⟩ := bind_eq_ok.mp hsteps
    obtain rfl := Except.ok.inj ht
    exact ⟨⟨hblk, hkey, rfl⟩, rfl⟩
  | _ =>
    obtain ⟨n, -, hreads⟩ := bind_eq_ok.mp h
    obtain ⟨xs, -, ht⟩ := bind_eq_ok.mp hreads
    obtain rfl := Except.ok.inj ht
    exact ⟨hs, rfl⟩

end

/-! ### After a command without error. -/

/-- An `EXECUTE` that ends without an error has passed its checks, and its body has run (R167). -/
theorem body_of_success {s t : State} {st : StepId} {dec : Bool} {rnd : Nat}
    (h : exec (Instr.ofStep st dec rnd) s = .next t) (herr : t.err = .ok) :
    s.Accepts dec rnd ∧ ∃ round : Round, round.val + 1 = rnd ∧ s.executeBody st dec round = .ok t := by
  rw [exec_ofStep] at h
  rcases runExecute_cases dec rnd (cutOf st) s with
    ⟨_, -, -, h'⟩ | ⟨hd, ⟨-, h'⟩ | ⟨-, -, -, -, h'⟩ | ⟨round, hr, hs, hn, h'⟩⟩ <;> rw [h'] at h
  · obtain rfl := Host.Outcome.next.inj h
    cases herr
  · obtain rfl := Host.Outcome.next.inj h
    cases herr
  · obtain rfl := Host.Outcome.next.inj h
    cases herr
  · have := round.isLt
    exact ⟨⟨hd, by omega, by omega, hs, hn⟩, round, hr, settle_eq_next.mp h⟩

theorem tagVal_positionAfter (round : Round) (st : StepId) : tagVal (positionAfter round st) =
    if st = .f ∨ st = .out then (round.val : Int) else (round.val : Int) - 1 := by
  cases st with
  | f => rfl
  | out => rfl
  | _ => exact tagVal_before round

theorem ksRound_ofDec : ∀ (dec : Bool) (round : Round),
    ksRound (Direction.ofDec dec) round = if dec then 15 - round else round := by decide

/-- Settles O56: the body has run (`body_of_success`); the common part ends at the position before the round
(`toCutPoint_loadedAt`), and the own part at that of its step (`cutOf_loadedAt`). -/
theorem positionAfterACommand : Obligations.PositionAfterACommand := by
  intro s t st dec round h herr
  obtain ⟨-, r, hr, hbody⟩ := body_of_success h herr
  obtain rfl : r = round := Fin.ext (by omega)
  obtain ⟨-, -, hdir, -⟩ := executeBody_setting hbody
  obtain ⟨p, hprefix, hcut⟩ := bind_eq_ok.mp hbody
  obtain ⟨hp, hpkey⟩ := toCutPoint_loadedAt hprefix
  obtain ⟨⟨hblk, hkey, hpos⟩, htkey⟩ := cutOf_loadedAt hp hcut
  exact ⟨by rw [hpos, tagVal_positionAfter], by rw [htkey, hpkey, ksRound_ofDec], hblk, hkey, hdir⟩

end Sys2Proof.Machine
end

section
/-! PROOFS. The family of 44_driver.md, completion: the driver as a whole (O42, O43), the state at the cut point (O35) and
the eight step variants (O36 to O41).

`prefixOf_of_accepts` and `exec_of_accepts` say once where a command that passes its checks stands at its cut point and
how it ends, on the loaded words. Each variant's statement reads that end state index by index: `pairUp_getElem?` gives
the block and the key of an index, `withLive_sees` what steps 1 to 9 see of them. -/

namespace Sys2Proof.Machine

/-! ### The course of a command that passes its checks (R130, R149). -/

theorem exists_round {rnd : Nat} (h1 : 1 ≤ rnd) (h2 : rnd ≤ 16) : ∃ round : Round, rnd = round.val + 1 :=
  ⟨⟨rnd - 1, by omega⟩, by simp only; omega⟩

/-- What the buffers of `s` hold, when the lengths pass the checks: the blocks and the keys (R90, R132). -/
def State.Loads (s : State) (blocks keys : List Quad) : Prop :=
  s.inp.load .vals (s.inp.vlen / 16) = .ok blocks ∧ s.inp.load .keys (s.inp.klen / 16) = .ok keys

section
variable {s : State} {dec : Bool} {round : Round} {blocks keys : List Quad}

theorem loads_exist (s : State) : ∃ blocks keys, s.Loads blocks keys := by
  obtain ⟨blocks, hv⟩ := load_exists_ok s.inp .vals
  obtain ⟨keys, hk⟩ := load_exists_ok s.inp .keys
  exact ⟨blocks, keys, hv, hk⟩

theorem loads_length (hl : s.Loads blocks keys) :
    blocks.length = s.inp.vlen / 16 ∧ keys.length = s.inp.klen / 16 :=
  ⟨load_length hl.1, load_length hl.2⟩

theorem countsOk_of_accepts (hacc : s.Accepts dec (round.val + 1)) (hl : s.Loads blocks keys) :
    CountsOk blocks keys := by
  obtain ⟨-, -, -, hs, -⟩ := hacc
  obtain ⟨hv, hk⟩ := hl
  exact counts_of_loads hs hv hk

/-- The state in which a command with the step `st` ends, but for its capture (R145, R147). -/
def State.endState (s : State) (dec : Bool) (round : Round) (st : StepId) (blocks keys : List Quad) : State :=
  State.withLive (Direction.ofDec dec) blocks keys (ksRound (Direction.ofDec dec) round) (positionAfter round st)
    { s with dir := some (Direction.ofDec dec) }

/-- The cut point of a command that passes its checks, from whatever coherent state it starts (R133 to R135). -/
theorem prefixOf_of_accepts (hco : s.Coherent) (hacc : s.Accepts dec (round.val + 1)) (hl : s.Loads blocks keys) :
    s.prefixOf dec round = .ok (cutState (Direction.ofDec dec) blocks keys round
      { s with dir := some (Direction.ofDec dec) }) := by
  obtain ⟨hd, -, -, hs, -⟩ := id hacc
  obtain ⟨hv, hk⟩ := hl
  exact toCutPoint_ok (coherent_freeze hco hd) rfl (counts_of_loads hs hv hk) hv hk round

/-- The end of a command that passes its checks (R145, R149). -/
theorem exec_of_accepts (hco : s.Coherent) (hacc : s.Accepts dec (round.val + 1)) (hl : s.Loads blocks keys)
    (st : StepId) : exec (Instr.ofStep st dec (round.val + 1)) s =
      .next ((s.endState dec round st blocks keys).capture
        (statelessOut (Direction.ofDec dec) round st blocks keys)) := by
  rw [exec_ofStep, runExecute_accepted _ hacc, prefixOf_of_accepts hco hacc hl, ok_bind,
    cutOf_ok _ _ _ _ _ (countsOk_of_accepts hacc hl), settle_ok]
  rfl

/-- What the end state of every step is, besides the columns and `OUT` (R147). -/
theorem completed_withLive (hl : s.Loads blocks keys) (position : Option Round) {t : State}
    (ht : t = { s.withLive (Direction.ofDec dec) blocks keys (ksRound (Direction.ofDec dec) round) position with
      dir := some (Direction.ofDec dec), err := .ok, out := t.out }) : s.Completed dec round position t := by
  obtain ⟨hb, hk⟩ := loads_length hl
  rw [ht]
  exact ⟨rfl, rfl, rfl, rfl, rfl, rfl, congrArg some hb, congrArg some hk, rfl, rfl⟩

/-! ### Earlier commands (R148, R197). -/

theorem writeCmd_coherent (hco : s.Coherent) (w : CmdWord) : (s.writeCmd w).Coherent := by
  rcases hco with hfresh | ⟨d, blocks, keys, kr, hd, hs, hn, hv, hk, hlive⟩
  · have hfresh' := congrArg (State.writeCmd w) hfresh
    exact .inl hfresh'
  · have hlive' := congrArg (State.writeCmd w) hlive
    exact .inr ⟨d, blocks, keys, kr, hd, hs, hn, hv, hk, hlive'⟩

/-- Command words keep a state coherent, and write nothing of the inputs but `CMD`, and no parameter (R23, R197). -/
theorem acts_commands {ws : List CmdWord} {u : State} (hco : s.Coherent)
    (h : State.acts (ws.map HostAct.command) s = .next u) :
    u.Coherent ∧ u.inp = { s.inp with cmd := u.inp.cmd } ∧ u.cfg = s.cfg := by
  induction ws generalizing s with
  | nil =>
    obtain rfl := Host.Outcome.next.inj h
    exact ⟨hco, rfl, rfl⟩
  | cons w ws ih =>
    obtain ⟨v, hv, hu⟩ := acts_cons_next h
    obtain ⟨hvinp, hvcfg⟩ := stepLeavesTheInputs _ v hv
    obtain ⟨huco, huinp, hucfg⟩ := ih (stepKeepsCoherence _ v (writeCmd_coherent hco w) hv) hu
    rw [hvinp] at huinp
    exact ⟨huco, huinp, hucfg.trans hvcfg⟩

end

/-! ### The driver as a whole (O35, O42, O43). -/

/-- Settles O42: `exec_of_accepts`, with the end state written out. -/
theorem executeEqualsTheStatelessRun : Obligations.ExecuteEqualsTheStatelessRun := by
  intro s st dec round hco hacc
  obtain ⟨blocks, keys, hv, hk⟩ := loads_exist s
  exact ⟨blocks, keys, hv, hk, exec_of_accepts hco hacc ⟨hv, hk⟩ st⟩

/-- Settles O35: the state at the cut point is the live state before the round (`prefixOf_of_accepts`). -/
theorem prefixEndsBeforeTheRound : Obligations.PrefixEndsBeforeTheRound := by
  intro s dec round hco hacc
  obtain ⟨blocks, keys, hl⟩ := loads_exist s
  exact ⟨_, prefixOf_of_accepts hco hacc hl, rfl, completed_withLive hl _ rfl, rfl⟩

/-- Settles O43: the state before the command is coherent (`acts_commands`), as a fresh engine is, and from both the
command ends in the state that the buffers alone determine (`exec_of_accepts`). -/
theorem earlierCommandsDoNotShow : Obligations.EarlierCommandsDoNotShow := by
  intro s u ws st dec rnd hco hacts hacc
  obtain ⟨huco, -, -⟩ := acts_commands hco hacts
  obtain ⟨hd, h1, h2, hs, hn⟩ := id hacc
  obtain ⟨round, rfl⟩ := exists_round h1 h2
  obtain ⟨blocks, keys, hl⟩ := loads_exist u
  have hfresh : (u.hreset u.inp).Accepts dec (round.val + 1) := ⟨.inl rfl, h1, h2, hs, hn⟩
  have hfreshco : (u.hreset u.inp).Coherent := .inl rfl
  exact ⟨_, exec_of_accepts huco hacc hl st, rfl, exec_of_accepts hfreshco hfresh hl st⟩

/-! ### The live state, index by index. -/

section
variable {d : Direction} {blocks keys : List Quad} {round : Round} {s : State} {i : Nat}

/-- The pair of an index is the block of the index and the key of its key index (R123). -/
theorem pairUp_getElem? (h : CountsOk blocks keys) (hi : i < blocks.length) :
    ∃ p, (pairUp blocks keys)[i]? = some p ∧ blocks[i]? = some p.1 ∧
      keys[keyIndex keys.length blocks.length i]? = some p.2 := by
  refine ⟨_, List.getElem?_eq_getElem (by rwa [pairUp_length h]), ?_⟩
  rw [pairUp_getElem h i hi, List.getElem?_eq_getElem hi, List.getElem?_eq_getElem (keyIndex_lt h i hi)]
  exact ⟨rfl, rfl⟩

/-- The named columns of a block of the live state (R111). -/
theorem withLive_readNamed (h : CountsOk blocks keys) (kr : Round) (br : Option Round) (r : Round) {p : Quad × Quad}
    (hp : (pairUp blocks keys)[i]? = some p) :
    (s.withLive d blocks keys kr br).readNamed r i = .ok ((blockAfter d p.2 br p.1).renamed r) := by
  obtain ⟨hi, rfl⟩ := List.getElem?_eq_some_iff.mp hp
  have hread := readNamed_ok (withLive_holdsBlocks d blocks keys kr br s (pairUp_length h)) r i (by simpa using hi)
  simpa using hread

/-- What steps 1 to 9 see of a block at the cut point: its columns before the round, and the subkeys of its key. -/
theorem withLive_sees (h : CountsOk blocks keys) {p : Quad × Quad} (hp : (pairUp blocks keys)[i]? = some p)
    (hk : keys[keyIndex keys.length blocks.length i]? = some p.2) :
    (cutState d blocks keys round s).Sees round i ((blockAtCut d round p).renamed round)
      (subkeysOf (ksRound d round) p.2) := by
  refine ⟨withLive_readNamed h _ _ _ hp, blocks.length, keys.length, rfl, rfl, ?_⟩
  obtain ⟨hlt, hkey⟩ := List.getElem?_eq_some_iff.mp hk
  have hread := readSubkeys_ok (withLive_holdsSubkeys d blocks keys (ksRound d round) (before round) s)
    (keyIndex keys.length blocks.length i) (by simpa using hlt)
  rwa [List.getElem_map, hkey] at hread

/-- The columns named `a3` and `a4` of a round, as registers (R111). -/
theorem registers_of_readNamed {r : Round} {a : Quad} (h : s.readNamed r i = .ok a) :
    (if r.val % 2 = 0 then s.v3[i]? else s.v1[i]?) = some a.w3 ∧
      (if r.val % 2 = 0 then s.v4[i]? else s.v2[i]?) = some a.w4 := by
  obtain ⟨-, h1, h2, h3, h4⟩ := readBlock_eq_ok.mp (readNamed_eq_ok.mp h)
  split
  next heven => exact ⟨by rw [h3, renamed_of_even heven], by rw [h4, renamed_of_even heven]⟩
  next hodd => exact ⟨by rw [h1, renamed_of_odd hodd], by rw [h2, renamed_of_odd hodd]⟩

/-- The named columns after the cut-point round: steps 10 and 11 with the temporaries at the cut point (R126). -/
theorem blockAfter_some_eq_applyRound (d : Direction) (round : Round) (p : Quad × Quad) :
    (blockAfter d p.2 (some round) p.1).renamed round =
      applyRound (tempsAtCut d round p) ((blockAtCut d round p).renamed round) := by
  rw [blockAfter_some, roundOf, renamed_renamed]
  rfl

/-- The three G-functions of the round, one after the other, on what steps 1 to 9 see (R115 to R119). -/
theorem tempsAtCut_cascade {a : Quad} {k : Word × Word} {p : Quad × Quad}
    (ha : a = (blockAtCut d round p).renamed round) (hk : k = subkeysOf (ksRound d round) p.2) :
    (tempsAtCut d round p).x3 = gFun ((a.w3 ^^^ k.1) ^^^ (a.w4 ^^^ k.2)) ∧
      (tempsAtCut d round p).x5 = gFun ((tempsAtCut d round p).x3 + (a.w3 ^^^ k.1)) ∧
      (tempsAtCut d round p).x7 = gFun ((tempsAtCut d round p).x5 + (tempsAtCut d round p).x3) := by
  subst ha hk
  refine ⟨?_, rfl, rfl⟩
  rw [BitVec.xor_comm (_ ^^^ _)]
  rfl

/-- The round, in closed form, on what steps 1 to 9 see: `x8` and `x7` are the F-function, and steps 10 and 11 write them
over `a1` and `a2` (R120 to R122, R126). -/
theorem tempsAtCut_fValue {a : Quad} {k : Word × Word} {p : Quad × Quad}
    (ha : a = (blockAtCut d round p).renamed round) (hk : k = subkeysOf (ksRound d round) p.2) :
    (tempsAtCut d round p).x8 = (fValue k.1 k.2 a.w3 a.w4).1 ∧
      (tempsAtCut d round p).x7 = (fValue k.1 k.2 a.w3 a.w4).2 ∧
      (blockAfter d p.2 (some round) p.1).renamed round =
        { a with w1 := a.w1 ^^^ (fValue k.1 k.2 a.w3 a.w4).1, w2 := a.w2 ^^^ (fValue k.1 k.2 a.w3 a.w4).2 } := by
  have htemps : tempsAtCut d round p = roundSteps k.1 k.2 a.w3 a.w4 := by
    subst ha hk
    rfl
  obtain ⟨h8, h7⟩ := Prod.mk.inj (roundSteps_eq_fValue k.1 k.2 a.w3 a.w4)
  rw [blockAfter_some_eq_applyRound, ← ha, htemps]
  exact ⟨h8, h7, applyRound_roundSteps k.1 k.2 a⟩

end

/-! ### The elements of a capture (R42, R43, R47). -/

section
variable {α : Type} {xs : List α} {x : α} {n i : Nat}

theorem column64_element (f : α → W64) (h : xs[i]? = some x) :
    (OutBuf.column64 n (xs.map f)).element i = some (f x).toNat := by
  simp [OutBuf.element, OutBuf.column64, h]

theorem column64_packPair_element (f g : α → Word) (h : xs[i]? = some x) :
    (OutBuf.column64 n (xs.map fun y => packPair (f y) (g y))).element i =
      some ((f x).toNat * 2 ^ 32 + (g x).toNat) := by
  rw [column64_element _ h, packPair_toNat]

theorem column32_element (f : α → Word) (h : xs[i]? = some x) :
    (OutBuf.column32 n (xs.map f)).element i = some (f x).toNat := by
  simp [OutBuf.element, OutBuf.column32, h]

end

theorem bytes_length (q : Quad) : q.bytes.length = 16 := rfl

/-- Byte `j` of row `i` stands at `16·i + j` of the row-major order. -/
theorem flatMap_bytes_getElem? {qs : List Quad} {q : Quad} {i j : Nat} (h : qs[i]? = some q) (hj : j < 16) :
    (qs.flatMap Quad.bytes)[16 * i + j]? = q.bytes[j]? := by
  induction qs generalizing i with
  | nil => simp at h
  | cons p qs ih =>
    rw [List.flatMap_cons]
    cases i with
    | zero =>
      obtain rfl : p = q := by simpa using h
      rw [List.getElem?_append_left (by rw [bytes_length]; omega), Nat.mul_zero, Nat.zero_add]
    | succ i =>
      rw [List.getElem?_append_right (by rw [bytes_length]; omega), bytes_length,
        show 16 * (i + 1) + j - 16 = 16 * i + j by omega]
      exact ih (by simpa using h)

/-- Byte `k` of a word is the word shifted and masked (R41). -/
theorem byteOf_toNat_mask (k : Nat) (x : Word) : (byteOf k x).toNat = ((x >>> (8 * (3 - k))) &&& 0xff#32).toNat := by
  rw [byteOf, ← setWidth_and_ff, BitVec.toNat_setWidth, Nat.mod_eq_of_lt]
  rw [BitVec.toNat_and]
  exact Nat.and_lt_two_pow (n := 8) _ (by decide)

/-- Byte `j` of a block is byte `j mod 4` of word `j / 4` (R41, R143). -/
theorem bytes_getElem? (q : Quad) {j : Nat} (hj : j < 16) :
    q.bytes[j]? = some (byteOf (j % 4) ([q.w1, q.w2, q.w3, q.w4].getD (j / 4) 0#32)) := by
  interval_cases j <;> rfl

theorem bytes16_element {α : Type} {xs : List α} {x : α} {n i j : Nat} (f : α → Quad) (h : xs[i]? = some x)
    (hj : j < 16) : (OutBuf.bytes16 n (xs.map f)).element (16 * i + j) =
      some (byteOf (j % 4) ([(f x).w1, (f x).w2, (f x).w3, (f x).w4].getD (j / 4) 0#32)).toNat := by
  have hrow : (xs.map f)[i]? = some (f x) := by simp [h]
  simp [OutBuf.element, OutBuf.bytes16, flatMap_bytes_getElem? hrow hj, bytes_getElem? (f x) hj]

/-- The descriptor of the stateless output is that of its step (R47). -/
theorem statelessOut_shape (d : Direction) (round : Round) (st : StepId) (blocks keys : List Quad) :
    ((statelessOut d round st blocks keys).rows, (statelessOut d round st blocks keys).cols,
      (statelessOut d round st blocks keys).ew) = captureShape blocks.length keys.length st := by
  cases st <;> rfl

/-- The stateless output has as many elements as its descriptor says (R47). -/
theorem statelessOut_described (d : Direction) (round : Round) (st : StepId) {blocks keys : List Quad}
    (h : CountsOk blocks keys) : (statelessOut d round st blocks keys).Described := by
  have hlen := pairUp_length h
  cases st with
  | rkey => exact column64_described (List.length_map _)
  | right => exact column64_described ((List.length_map _).trans hlen)
  | ark => exact column64_described ((List.length_map _).trans hlen)
  | gda => exact column32_described ((List.length_map _).trans hlen)
  | gc => exact column32_described ((List.length_map _).trans hlen)
  | gdb => exact column32_described ((List.length_map _).trans hlen)
  | f => exact column64_described ((List.length_map _).trans hlen)
  | out => exact bytes16_described ((List.length_map _).trans hlen)

/-! ### The step variants (O36 to O41). -/

theorem capture_samePersistent (o : OutBuf) (s : State) : (s.capture o).samePersistent s :=
  ⟨rfl, rfl, rfl, rfl, rfl, rfl, rfl, rfl, rfl, rfl, rfl, rfl, rfl, rfl, rfl, rfl, rfl⟩

section
variable {s : State} {dec : Bool} {round : Round} {blocks keys : List Quad}

/-- How a command that passes its checks ends, in the terms that the statements share (R47, R147). -/
theorem end_of_accepts (hco : s.Coherent) (hacc : s.Accepts dec (round.val + 1)) (hl : s.Loads blocks keys)
    (st : StepId) : ∃ t, exec (Instr.ofStep st dec (round.val + 1)) s = .next t ∧
      t = (s.endState dec round st blocks keys).capture (statelessOut (Direction.ofDec dec) round st blocks keys) ∧
      s.Completed dec round (positionAfter round st) t ∧
      (t.out.rows, t.out.cols, t.out.ew) = captureShape (s.inp.vlen / 16) (s.inp.klen / 16) st ∧
      t.out.elems.count = (captureShape (s.inp.vlen / 16) (s.inp.klen / 16) st).1 *
        (captureShape (s.inp.vlen / 16) (s.inp.klen / 16) st).2.1 := by
  obtain ⟨hb, hk⟩ := loads_length hl
  obtain ⟨-, hcount⟩ := statelessOut_described (Direction.ofDec dec) round st (countsOk_of_accepts hacc hl)
  have hshape := statelessOut_shape (Direction.ofDec dec) round st blocks keys
  rw [hb, hk] at hshape
  refine ⟨_, exec_of_accepts hco hacc hl st, rfl, completed_withLive hl _ rfl, hshape, ?_⟩
  rw [← hshape]
  exact hcount.symm

/-- The block and the key of each index below the block count. -/
theorem pairUp_of_accepts (hacc : s.Accepts dec (round.val + 1)) (hl : s.Loads blocks keys) {i : Nat}
    (hi : i < s.inp.vlen / 16) : ∃ p, (pairUp blocks keys)[i]? = some p ∧
      keys[keyIndex keys.length blocks.length i]? = some p.2 := by
  obtain ⟨hb, -⟩ := loads_length hl
  obtain ⟨p, hp, -, hkey⟩ := pairUp_getElem? (countsOk_of_accepts hacc hl) (hb ▸ hi)
  exact ⟨p, hp, hkey⟩

/-- The named columns of a block when the command has ended (R111, R145). -/
theorem endState_readNamed (hc : CountsOk blocks keys) (st : StepId) (o : OutBuf) {i : Nat} {p : Quad × Quad}
    (hp : (pairUp blocks keys)[i]? = some p) :
    ((s.endState dec round st blocks keys).capture o).readNamed round i =
      .ok ((blockAfter (Direction.ofDec dec) p.2 (positionAfter round st) p.1).renamed round) :=
  withLive_readNamed (s := { s with dir := some (Direction.ofDec dec) }) hc
    (ksRound (Direction.ofDec dec) round) _ round hp

/-- A capture writes nothing that steps 1 to 9 see (R47). -/
theorem capture_sees {o : OutBuf} {i : Nat} {a : Quad} {k : Word × Word} (h : s.Sees round i a k) :
    (s.capture o).Sees round i a k := h

end

/-- Settles O36: row `i` of the capture is the subkeys of key `i`, which are what the registers hold. -/
theorem rkeyCapturesTheSubkeys : Obligations.RkeyCapturesTheSubkeys := by
  intro s dec round hco hacc
  obtain ⟨blocks, keys, hl⟩ := loads_exist s
  obtain ⟨t, hexec, rfl, hdone, hshape, hcount⟩ := end_of_accepts hco hacc hl .rkey
  obtain ⟨-, hk⟩ := loads_length hl
  refine ⟨_, _, prefixOf_of_accepts hco hacc hl, hexec, hdone, capture_samePersistent _ _, hshape,
    by simpa [captureShape] using hcount, fun i hi => ?_⟩
  have hkey : keys[i]? = some (keys[i]'(hk ▸ hi)) := List.getElem?_eq_getElem _
  exact ⟨_, _, by simp [State.endState, hkey], by simp [State.endState, hkey], column64_packPair_element _ _ hkey⟩

/-- Settles O37: row `i` is the columns named `a3` and `a4`, which the round leaves where they are. -/
theorem rightCapturesTheRightHalf : Obligations.RightCapturesTheRightHalf := by
  intro s dec round hco hacc
  obtain ⟨blocks, keys, hl⟩ := loads_exist s
  obtain ⟨t, hexec, rfl, hdone, hshape, hcount⟩ := end_of_accepts hco hacc hl .right
  refine ⟨_, _, prefixOf_of_accepts hco hacc hl, hexec, hdone, capture_samePersistent _ _, hshape,
    by simpa [captureShape] using hcount, fun i hi => ?_⟩
  obtain ⟨p, hp, -⟩ := pairUp_of_accepts hacc hl hi
  obtain ⟨h3, h4⟩ := registers_of_readNamed (endState_readNamed (countsOk_of_accepts hacc hl) .right _ hp)
  exact ⟨_, _, h3, h4, column64_packPair_element _ _ hp⟩

/-- Settles O38: row `i` is `x0` and `x2` of what steps 1 to 9 see of block `i` (`withLive_sees`). -/
theorem arkCapturesTheKeyAddition : Obligations.ArkCapturesTheKeyAddition := by
  intro s dec round hco hacc
  obtain ⟨blocks, keys, hl⟩ := loads_exist s
  obtain ⟨t, hexec, rfl, hdone, hshape, hcount⟩ := end_of_accepts hco hacc hl .ark
  refine ⟨_, _, prefixOf_of_accepts hco hacc hl, hexec, hdone, capture_samePersistent _ _, hshape,
    by simpa [captureShape] using hcount, fun i hi => ?_⟩
  obtain ⟨p, hp, hkey⟩ := pairUp_of_accepts hacc hl hi
  refine ⟨_, _, capture_sees (withLive_sees (countsOk_of_accepts hacc hl) hp hkey), ?_⟩
  rw [BitVec.xor_comm (_ ^^^ _)]
  exact column64_packPair_element _ _ hp

/-- Settles O39: the three captures are `x3`, `x5` and `x7` of what steps 1 to 9 see of block `i`
(`roundSteps_cascade`). -/
theorem gCascadeCaptures : Obligations.GCascadeCaptures := by
  intro s dec round hco hacc
  obtain ⟨blocks, keys, hl⟩ := loads_exist s
  obtain ⟨t, htexec, rfl, htdone, htshape, htcount⟩ := end_of_accepts hco hacc hl .gda
  obtain ⟨u, huexec, rfl, hudone, hushape, hucount⟩ := end_of_accepts hco hacc hl .gc
  obtain ⟨v, hvexec, rfl, hvdone, hvshape, hvcount⟩ := end_of_accepts hco hacc hl .gdb
  refine ⟨_, prefixOf_of_accepts hco hacc hl, _, _, _, htexec, huexec, hvexec, ?_, fun i hi => ?_⟩
  · rintro z (rfl | rfl | rfl)
    · exact ⟨htdone, capture_samePersistent _ _, htshape, by simpa [captureShape] using htcount⟩
    · exact ⟨hudone, capture_samePersistent _ _, hushape, by simpa [captureShape] using hucount⟩
    · exact ⟨hvdone, capture_samePersistent _ _, hvshape, by simpa [captureShape] using hvcount⟩
  · obtain ⟨p, hp, hkey⟩ := pairUp_of_accepts hacc hl hi
    obtain ⟨h3, h5, h7⟩ := tempsAtCut_cascade (d := Direction.ofDec dec) (round := round) (p := p) rfl rfl
    exact ⟨_, _, _, _, _, withLive_sees (countsOk_of_accepts hacc hl) hp hkey, h3, h5, h7,
      column32_element _ hp, column32_element _ hp, column32_element _ hp⟩

theorem withLive_sameKeys (d : Direction) (blocks keys : List Quad) (kr : Round) (br br' : Option Round) (o : OutBuf)
    (s : State) : ((s.withLive d blocks keys kr br).capture o).sameKeys (s.withLive d blocks keys kr br') :=
  ⟨rfl, rfl, rfl, rfl, rfl, rfl, rfl, rfl, rfl⟩

/-- Settles O40: row `i` is `x8` and `x7` of what steps 1 to 9 see of block `i`, and the columns after the round are those
before it with both applied (`tempsAtCut_fValue`). -/
theorem fCapturesAndCompletesTheRound : Obligations.FCapturesAndCompletesTheRound := by
  intro s dec round hco hacc
  obtain ⟨blocks, keys, hl⟩ := loads_exist s
  obtain ⟨t, hexec, rfl, hdone, hshape, hcount⟩ := end_of_accepts hco hacc hl .f
  refine ⟨_, _, prefixOf_of_accepts hco hacc hl, hexec, hdone, withLive_sameKeys _ _ _ _ _ _ _ _, hshape,
    by simpa [captureShape] using hcount, fun i hi => ?_⟩
  have hc := countsOk_of_accepts hacc hl
  obtain ⟨p, hp, hkey⟩ := pairUp_of_accepts hacc hl hi
  obtain ⟨h8, h7, hblock⟩ := tempsAtCut_fValue (d := Direction.ofDec dec) (round := round) (p := p) rfl rfl
  refine ⟨_, _, _, withLive_sees hc hp hkey, endState_readNamed hc .f _ hp, hblock, ?_⟩
  rw [← h8, ← h7]
  exact column64_packPair_element _ _ hp

/-- Settles O41: row `i` is the bytes of the named columns after the round (`bytes16_element`), which
are those before it with the round applied (`tempsAtCut_fValue`). -/
theorem outCapturesTheBytes : Obligations.OutCapturesTheBytes := by
  intro s dec round hco hacc
  obtain ⟨blocks, keys, hl⟩ := loads_exist s
  obtain ⟨t, hexec, rfl, hdone, hshape, hcount⟩ := end_of_accepts hco hacc hl .out
  refine ⟨_, _, prefixOf_of_accepts hco hacc hl, hexec, hdone, withLive_sameKeys _ _ _ _ _ _ _ _, hshape,
    hcount.trans (Nat.mul_comm _ _), fun i hi => ?_⟩
  have hc := countsOk_of_accepts hacc hl
  obtain ⟨p, hp, hkey⟩ := pairUp_of_accepts hacc hl hi
  obtain ⟨-, -, hblock⟩ := tempsAtCut_fValue (d := Direction.ofDec dec) (round := round) (p := p) rfl rfl
  refine ⟨_, _, _, withLive_sees hc hp hkey, endState_readNamed hc .out _ hp, hblock, fun j hj => ?_⟩
  rw [← byteOf_toNat_mask]
  exact bytes16_element _ hp hj

end Sys2Proof.Machine
end

section
/-! PROOFS. The family of 44_driver.md, bytes and blocks: a fresh engine decrypts what a fresh engine encrypted (O45), and
a batch is its blocks one by one (O46).

`quadsOf` is what a load gives for a buffer of listed bytes (`loads_of_holds`), so a command on such a buffer answers the
stateless output of the blocks of the bytes (`exec_of_serves`). What is left is about lists: `quadsOf` and the bytes of the
blocks undo each other, a row of the stateless output depends on its own pair alone (`statelessOut_isRowOf`), and the
rounds of one direction undo those of the other (`decrypt_encrypt`). -/

namespace Sys2Proof.Machine

/-! ### Chunks of bytes. -/

/-- Bytes `16·i` to `16·i + 15` of a list. -/
def chunk (bs : List Byte) (i : Nat) : List Byte := (bs.drop (16 * i)).take 16

theorem chunk_getElem? (bs : List Byte) (i : Nat) {j : Nat} (hj : j < 16) : (chunk bs i)[j]? = bs[16 * i + j]? := by
  rw [chunk, List.getElem?_take_of_lt hj, List.getElem?_drop]

theorem chunk_length {bs : List Byte} {i : Nat} (hi : i < bs.length / 16) : (chunk bs i).length = 16 := by
  rw [chunk, List.length_take, List.length_drop]
  omega

/-- A list that is one chunk is its only chunk. -/
theorem chunk_zero {bs : List Byte} (h : bs.length = 16) : chunk bs 0 = bs := by
  rw [chunk, Nat.mul_zero, List.drop_zero, ← h, List.take_length]

/-- The chunks of lists of 16 bytes put one after the other are the lists. -/
theorem chunk_flatten {ls : List (List Byte)} (h : ∀ l ∈ ls, l.length = 16) {l : List Byte} {i : Nat}
    (hi : ls[i]? = some l) : chunk ls.flatten i = l := by
  induction ls generalizing i with
  | nil => simp at hi
  | cons m ls ih =>
    have hm : m.length = 16 := h m (by simp)
    cases i with
    | zero =>
      obtain rfl : m = l := by simpa using hi
      rw [chunk, Nat.mul_zero, List.drop_zero, List.flatten_cons, ← hm, List.take_left]
    | succ i =>
      rw [chunk, List.flatten_cons, show 16 * (i + 1) = m.length + 16 * i by omega, List.drop_length_add_append]
      exact ih (fun k hk => h k (by simp [hk])) (by simpa using hi)

theorem flatten_length {ls : List (List Byte)} (h : ∀ l ∈ ls, l.length = 16) :
    ls.flatten.length = 16 * ls.length := by
  rw [List.length_flatten, List.map_congr_left h, List.map_const', List.sum_replicate, smul_eq_mul, Nat.mul_comm]

/-! ### Blocks and their bytes (R40, R41). -/

/-- The big-endian word of the four bytes from offset `a` of a list (R40). -/
def wordOf (bs : List Byte) (a : Nat) : Word :=
  be32 (bs.getD a 0) (bs.getD (a + 1) 0) (bs.getD (a + 2) 0) (bs.getD (a + 3) 0)

/-- The block of the first 16 bytes of a list: four big-endian words (R90). -/
def Quad.ofBytes (bs : List Byte) : Quad :=
  { w1 := wordOf bs 0, w2 := wordOf bs 4, w3 := wordOf bs 8, w4 := wordOf bs 12 }

/-- The blocks of a list of bytes, as a load gives them (R90). -/
def quadsOf (bs : List Byte) : List Quad := (List.range (bs.length / 16)).map fun i => Quad.ofBytes (chunk bs i)

theorem ofBytes_bytes (q : Quad) : Quad.ofBytes q.bytes = q := by
  obtain ⟨w1, w2, w3, w4⟩ := q
  have hword : Quad.ofBytes (Quad.bytes ⟨w1, w2, w3, w4⟩) =
      ⟨be32 (byteOf 0 w1) (byteOf 1 w1) (byteOf 2 w1) (byteOf 3 w1),
        be32 (byteOf 0 w2) (byteOf 1 w2) (byteOf 2 w2) (byteOf 3 w2),
        be32 (byteOf 0 w3) (byteOf 1 w3) (byteOf 2 w3) (byteOf 3 w3),
        be32 (byteOf 0 w4) (byteOf 1 w4) (byteOf 2 w4) (byteOf 3 w4)⟩ := rfl
  rw [hword, be32_byteOf, be32_byteOf, be32_byteOf, be32_byteOf]

/-- Byte `k` of the big-endian word of four bytes is the `k`-th of them (R40, R41). -/
theorem byteOf_be32 (f : Nat → Byte) {k : Nat} (hk : k < 4) : byteOf k (be32 (f 0) (f 1) (f 2) (f 3)) = f k := by
  have h0 := (f 0).isLt
  have h1 := (f 1).isLt
  have h2 := (f 2).isLt
  have h3 := (f 3).isLt
  rw [← BitVec.toNat_inj, byteOf_toNat, be32_toNat]
  interval_cases k <;> norm_num <;> omega

theorem ofBytes_word (bs : List Byte) {n : Nat} (hn : n < 4) :
    [(Quad.ofBytes bs).w1, (Quad.ofBytes bs).w2, (Quad.ofBytes bs).w3, (Quad.ofBytes bs).w4].getD n 0#32 =
      wordOf bs (4 * n) := by
  interval_cases n <;> rfl

theorem bytes_ofBytes {bs : List Byte} (h : bs.length = 16) : (Quad.ofBytes bs).bytes = bs := by
  refine List.ext_getElem? fun j => ?_
  by_cases hj : j < 16
  · have hbyte := byteOf_be32 (fun m => bs.getD (4 * (j / 4) + m) 0) (show j % 4 < 4 by omega)
    simp only [show 4 * (j / 4) + j % 4 = j by omega] at hbyte
    rw [bytes_getElem? _ hj, ofBytes_word bs (by omega), List.getElem?_eq_getElem (by omega)]
    exact congrArg some (hbyte.trans (List.getD_eq_getElem bs 0 (by omega)))
  · rw [List.getElem?_eq_none (by rw [bytes_length]; omega), List.getElem?_eq_none (by omega)]

theorem quadsOf_length (bs : List Byte) : (quadsOf bs).length = bs.length / 16 := by
  rw [quadsOf, List.length_map, List.length_range]

theorem quadsOf_getElem? {bs : List Byte} {i : Nat} (hi : i < bs.length / 16) :
    (quadsOf bs)[i]? = some (Quad.ofBytes (chunk bs i)) := by
  simp [quadsOf, hi]

/-- The blocks of one block of bytes. -/
theorem quadsOf_of_length {bs : List Byte} (h : bs.length = 16) : quadsOf bs = [Quad.ofBytes bs] := by
  rw [quadsOf, h]
  exact congrArg (fun b => [Quad.ofBytes b]) (chunk_zero h)

/-- The blocks of the bytes of some blocks are those blocks (R40, R41). -/
theorem quadsOf_flatMap_bytes (qs : List Quad) : quadsOf (qs.flatMap Quad.bytes) = qs := by
  have hlen : (qs.flatMap Quad.bytes).length / 16 = qs.length := by
    rw [flatMap_bytes_length]
    omega
  refine List.ext_getElem? fun i => ?_
  by_cases hi : i < qs.length
  · have hchunk : chunk (qs.flatMap Quad.bytes) i = qs[i].bytes := by
      rw [List.flatMap_def]
      exact chunk_flatten (by simp [bytes_length]) (by simp [hi])
    rw [quadsOf_getElem? (hlen ▸ hi), hchunk, ofBytes_bytes, List.getElem?_eq_getElem hi]
  · rw [List.getElem?_eq_none (by rw [quadsOf_length]; omega), List.getElem?_eq_none (by omega)]

/-- The bytes of the blocks of whole blocks of bytes are those bytes (R40, R41). -/
theorem flatMap_bytes_quadsOf {bs : List Byte} (h : bs.length % 16 = 0) : (quadsOf bs).flatMap Quad.bytes = bs := by
  have hlen : ((quadsOf bs).flatMap Quad.bytes).length = bs.length := by
    rw [flatMap_bytes_length, quadsOf_length]
    omega
  refine List.ext_getElem? fun n => ?_
  by_cases hn : n < bs.length
  · have hi : n / 16 < bs.length / 16 := by omega
    have hj : n % 16 < 16 := Nat.mod_lt _ (by omega)
    have hn' : n = 16 * (n / 16) + n % 16 := by omega
    rw [hn', flatMap_bytes_getElem? (quadsOf_getElem? hi) hj, bytes_ofBytes (chunk_length hi), chunk_getElem? _ _ hj]
  · rw [List.getElem?_eq_none (by omega), List.getElem?_eq_none (by omega)]

/-! ### An engine on a buffer of listed bytes (R70, R188). -/

/-- The buffers hold exactly the listed bytes (R70). -/
def Inputs.Holds (inp : Inputs) (vals keys : List Byte) : Prop :=
  inp.vlen = vals.length ∧ inp.klen = keys.length ∧ inp.vals = Memory.ofBytes vals ∧ inp.keys = Memory.ofBytes keys

/-- A load of all items of a space that reads as a list of bytes gives the blocks of the list (R90). -/
theorem load_of_bytes {inp : Inputs} {sp : Space} {bs : List Byte} (hlen : inp.len sp = bs.length)
    (h : ∀ x, x < bs.length → inp.byteAt sp x = bs.getD x 0) : inp.load sp (bs.length / 16) = .ok (quadsOf bs) := by
  rw [load_of_le (by omega), quadsOf]
  refine congrArg _ (List.map_congr_left fun i hi => ?_)
  have hin : i < bs.length / 16 := List.mem_range.mp hi
  have hbyte : ∀ j, j < 16 → inp.byteAt sp (16 * i + j) = (chunk bs i).getD j 0 := by
    intro j hj
    rw [h _ (by omega), List.getD_eq_getElem?_getD, List.getD_eq_getElem?_getD, chunk_getElem? bs i hj]
  have hword : ∀ a, a + 4 ≤ 16 → inp.wordAt sp (16 * i + a) = wordOf (chunk bs i) a := by
    intro a ha
    rw [Inputs.wordAt, wordOf, ← hbyte a (by omega), ← hbyte (a + 1) (by omega), ← hbyte (a + 2) (by omega),
      ← hbyte (a + 3) (by omega)]
    rfl
  rw [Inputs.itemAt, Quad.ofBytes, ← hword 0 (by omega), ← hword 4 (by omega), ← hword 8 (by omega),
    ← hword 12 (by omega)]
  rfl

theorem loads_of_holds {s : State} {vals keys : List Byte} (h : s.inp.Holds vals keys) :
    s.Loads (quadsOf vals) (quadsOf keys) := by
  obtain ⟨hvlen, hklen, hvals, hkeys⟩ := h
  refine ⟨?_, ?_⟩
  · rw [hvlen]
    refine load_of_bytes hvlen fun x hx => ?_
    simp [Inputs.byteAt, Inputs.mem, hvals, hx]
  · rw [hklen]
    refine load_of_bytes hklen fun x hx => ?_
    simp [Inputs.byteAt, Inputs.mem, hkeys, hx]

/-- A coherent engine whose buffers hold the listed bytes, and whose direction is none or the one of `dec`. -/
def State.Serves (s : State) (dec : Bool) (vals keys : List Byte) : Prop :=
  s.Coherent ∧ s.inp.Holds vals keys ∧ (s.dir = none ∨ s.dir = some (Direction.ofDec dec))

theorem freshWith_serves (s : State) (dec : Bool) (vals keys : List Byte) :
    (s.freshWith vals keys).Serves dec vals keys :=
  ⟨freshWith_coherent s vals keys, ⟨rfl, rfl, rfl, rfl⟩, .inl rfl⟩

section
variable {s : State} {dec : Bool} {vals keys : List Byte} {rnd : Nat} {round : Round}

/-- The checks, on the listed bytes (R131, R132). -/
theorem accepts_iff_of_holds (h : s.inp.Holds vals keys) : s.Accepts dec rnd ↔
    (s.dir = none ∨ s.dir = some (Direction.ofDec dec)) ∧ s.ValidInputs vals keys rnd := by
  obtain ⟨hvlen, hklen, -, -⟩ := h
  rw [State.Accepts, State.ValidInputs, shapeOk_iff, hvlen, hklen]
  simp only [itemCount, blockBytes]
  exact and_congr_right fun _ => by omega

/-- The counts of valid inputs pass the shape check (R14). -/
theorem countsOk_of_valid (hv : s.ValidInputs vals keys rnd) : CountsOk (quadsOf vals) (quadsOf keys) := by
  obtain ⟨-, hk, -⟩ := hv
  rw [CountsOk, quadsOf_length, quadsOf_length]
  omega

/-- The end of a command on listed bytes: the stateless output of their blocks (R149). -/
theorem exec_of_serves (h : s.Serves dec vals keys) (hv : s.ValidInputs vals keys (round.val + 1)) (st : StepId) :
    exec (Instr.ofStep st dec (round.val + 1)) s =
      .next ((s.endState dec round st (quadsOf vals) (quadsOf keys)).capture
        (statelessOut (Direction.ofDec dec) round st (quadsOf vals) (quadsOf keys))) := by
  obtain ⟨hco, hholds, hd⟩ := h
  exact exec_of_accepts hco ((accepts_iff_of_holds hholds).mpr ⟨hd, hv⟩) (loads_of_holds hholds) st

end

/-! ### Decryption undoes encryption (R125, R127). -/

theorem fifteen_sub_val : ∀ r : Round, (15 - r).val = 15 - r.val := by decide

theorem ksRound_decrypt_eq : ∀ r : Round, ksRound .decrypt r = ksRound .encrypt (15 - r) := by decide

/-- Rounds `r` and `15 − r` have opposite names, and those of round 15 exchange the halves (R111). -/
theorem renamed_fifteen_sub (r : Round) (q : Quad) :
    (q.renamed 15).renamed r = q.renamed (15 - r) ∧ (q.renamed (15 - r)).renamed 15 = q.renamed r := by
  have hr := r.isLt
  have hval := fifteen_sub_val r
  have h15 : ∀ q : Quad, q.renamed 15 = { w1 := q.w3, w2 := q.w4, w3 := q.w1, w4 := q.w2 } := fun _ => rfl
  by_cases heven : r.val % 2 = 0
  · have hodd : ¬ (15 - r).val % 2 = 0 := by omega
    simp only [h15, renamed_of_even heven, renamed_of_odd hodd, and_self]
  · have hsub : (15 - r).val % 2 = 0 := by omega
    simp only [h15, renamed_of_odd heven, renamed_of_even hsub, and_self]

/-- A round of the decryption on exchanged halves is the round of the encryption at the same key round. -/
theorem roundOf_renamed_15 (key : Quad) (r : Round) (q : Quad) :
    roundOf .decrypt key r (q.renamed 15) = (roundOf .encrypt key (15 - r) q).renamed 15 := by
  obtain ⟨hnames, -⟩ := renamed_fifteen_sub r q
  have htemps : tempsOf .decrypt key r (q.renamed 15) = tempsOf .encrypt key (15 - r) q := by
    rw [tempsOf, tempsOf, ksRound_decrypt_eq, hnames]
  rw [roundOf, roundOf, htemps, hnames]
  exact (renamed_fifteen_sub r _).2.symm

/-- One round of the decryption: if it starts from what the encryption had after its round `15 − r`, it ends at what the
encryption had before that round (R127). -/
theorem blockAfter_decrypt_of_before {key q c : Quad} {r : Round}
    (h : blockAfter .decrypt key (before r) c = (blockAfter .encrypt key (some (15 - r)) q).renamed 15) :
    blockAfter .decrypt key (some r) c = (blockAfter .encrypt key (before (15 - r)) q).renamed 15 := by
  rw [blockAfter_some, h, roundOf_renamed_15, blockAfter_some .encrypt, roundOf_roundOf _ _ key _ _ _ rfl rfl]

/-- Before round `r` of the decryption stands, with the halves exchanged, what the encryption had after its round
`15 − r`. -/
theorem blockAfter_decrypt_before (key q : Quad) (r : Round) :
    blockAfter .decrypt key (before r) ((blockAfter .encrypt key (some 15) q).renamed 15) =
      (blockAfter .encrypt key (some (15 - r)) q).renamed 15 := by
  obtain ⟨n, hn⟩ := r
  induction n with
  | zero => rfl
  | succ n ih =>
    have hprev := blockAfter_decrypt_of_before (ih (by omega))
    have hlast : before (15 - ⟨n, by omega⟩) = some (15 - ⟨n + 1, hn⟩) := by
      refine before_eq_some _ _ ?_
      rw [fifteen_sub_val, fifteen_sub_val]
      simp only
      omega
    rw [before_of_val_eq_succ (r := ⟨n, by omega⟩) rfl, hprev, hlast]

/-- A full run of the rounds in both directions gives the block back (R125, R127). -/
theorem decrypt_encrypt (key q : Quad) :
    (blockAfter .decrypt key (some 15) ((blockAfter .encrypt key (some 15) q).renamed 15)).renamed 15 = q := by
  rw [blockAfter_decrypt_of_before (blockAfter_decrypt_before key q 15), renamed_renamed]
  rfl

/-- The blocks after a full run, in the order of the output (R143). -/
def fullRun (d : Direction) (blocks keys : List Quad) : List Quad :=
  (pairUp blocks keys).map fun p => (blockAfter d p.2 (some 15) p.1).renamed 15

theorem fullRun_length {d : Direction} {blocks keys : List Quad} (h : CountsOk blocks keys) :
    (fullRun d blocks keys).length = blocks.length := by
  rw [fullRun, List.length_map, pairUp_length h]

/-- Block `i` after a full run, by the key of its key index. -/
theorem fullRun_getElem {d : Direction} {blocks keys : List Quad} (h : CountsOk blocks keys) {i : Nat}
    (hi : i < blocks.length) : (fullRun d blocks keys)[i]'(by rwa [fullRun_length h]) =
      (blockAfter d (keys[keyIndex keys.length blocks.length i]'(keyIndex_lt h i hi)) (some 15) blocks[i]).renamed 15 := by
  simp only [fullRun, List.getElem_map, pairUp_getElem h i hi]

theorem fullRun_fullRun {blocks keys : List Quad} (h : CountsOk blocks keys) :
    fullRun .decrypt (fullRun .encrypt blocks keys) keys = blocks := by
  have hlen : (fullRun .encrypt blocks keys).length = blocks.length := fullRun_length h
  have hc : CountsOk (fullRun .encrypt blocks keys) keys := by rwa [CountsOk, hlen]
  refine List.ext_getElem (by rw [fullRun_length hc, hlen]) fun i _ hi => ?_
  simp only [fullRun_getElem hc (hlen ▸ hi), fullRun_getElem h hi, hlen, decrypt_encrypt]

/-- The bytes after a full run on listed bytes. -/
def fullRunBytes (d : Direction) (vals keys : List Byte) : List Byte :=
  (fullRun d (quadsOf vals) (quadsOf keys)).flatMap Quad.bytes

/-- The capture of Output at round 16 is the bytes after the full run (R143). -/
theorem statelessOut_fullRun (d : Direction) (vals keys : List Byte) :
    statelessOut d 15 .out (quadsOf vals) (quadsOf keys) =
      { rows := vals.length / 16, cols := 16, ew := 8, elems := .w8 (fullRunBytes d vals keys) } := by
  rw [← quadsOf_length vals]
  rfl

section
variable {s : State} {vals keys : List Byte} {rnd : Nat}

theorem fullRunBytes_length (hv : s.ValidInputs vals keys rnd) (d : Direction) :
    (fullRunBytes d vals keys).length = vals.length := by
  rw [fullRunBytes, flatMap_bytes_length, fullRun_length (countsOk_of_valid hv), quadsOf_length]
  obtain ⟨hwhole, -⟩ := hv
  omega

theorem fullRunBytes_fullRunBytes (hv : s.ValidInputs vals keys rnd) :
    fullRunBytes .decrypt (fullRunBytes .encrypt vals keys) keys = vals := by
  obtain ⟨hwhole, -⟩ := id hv
  rw [fullRunBytes, fullRunBytes, quadsOf_flatMap_bytes, fullRun_fullRun (countsOk_of_valid hv),
    flatMap_bytes_quadsOf hwhole]

theorem validInputs_fullRunBytes (hv : s.ValidInputs vals keys rnd) (d : Direction) :
    s.ValidInputs (fullRunBytes d vals keys) keys rnd := by
  rw [State.ValidInputs, fullRunBytes_length hv d]
  exact hv

end

/-- Settles O45: both commands answer the bytes of a full run, of the plaintext and of those bytes again
(`fullRunBytes_fullRunBytes`). -/
theorem decryptUndoesEncrypt : Obligations.DecryptUndoesEncrypt := by
  intro s ps ks hp hk hn
  have hv : s.ValidInputs ps ks ((15 : Round).val + 1) := ⟨hp, hk, hn, by decide, by decide⟩
  have henc := exec_of_serves (freshWith_serves s false ps ks) hv .out
  have hdec := exec_of_serves (freshWith_serves s true (fullRunBytes .encrypt ps ks) ks)
    (validInputs_fullRunBytes hv .encrypt) .out
  refine ⟨_, fullRunBytes .encrypt ps ks, _, henc, rfl, ?_, hdec, rfl, ?_⟩
  · exact congrArg OutBuf.elems (statelessOut_fullRun .encrypt ps ks)
  · refine (congrArg OutBuf.elems (statelessOut_fullRun .decrypt _ ks)).trans ?_
    exact congrArg Elems.w8 (fullRunBytes_fullRunBytes hv)

/-! ### Rows of a capture (R47, R54, R123). -/

section
variable {α : Type} {xs : List α} {x : α} {n i : Nat}

theorem column64_isRowOf (f : α → W64) (h : xs[i]? = some x) :
    (OutBuf.column64 1 [f x]).isRowOf (OutBuf.column64 n (xs.map f)) i := by
  refine ⟨rfl, rfl, rfl, fun c hc => ?_⟩
  obtain rfl : c = 0 := Nat.lt_one_iff.mp hc
  have hrow := column64_element (n := n) f h
  rw [← Nat.one_mul i] at hrow
  exact hrow.symm

theorem column32_isRowOf (f : α → Word) (h : xs[i]? = some x) :
    (OutBuf.column32 1 [f x]).isRowOf (OutBuf.column32 n (xs.map f)) i := by
  refine ⟨rfl, rfl, rfl, fun c hc => ?_⟩
  obtain rfl : c = 0 := Nat.lt_one_iff.mp hc
  have hrow := column32_element (n := n) f h
  rw [← Nat.one_mul i] at hrow
  exact hrow.symm

theorem bytes16_isRowOf (f : α → Quad) (h : xs[i]? = some x) :
    (OutBuf.bytes16 1 [f x]).isRowOf (OutBuf.bytes16 n (xs.map f)) i := by
  refine ⟨rfl, rfl, rfl, fun c hc => ?_⟩
  have hone := bytes16_element (xs := [x]) (n := 1) (i := 0) f rfl hc
  rw [Nat.mul_zero, Nat.zero_add] at hone
  exact hone.trans (bytes16_element f h hc).symm

end

/-- The output for one pair is its row of the output for all: the row of its block, for RoundKey that of its key. -/
theorem statelessOut_isRowOf (d : Direction) (round : Round) (st : StepId) {blocks keys : List Quad} {i ki : Nat}
    {p : Quad × Quad} (hp : (pairUp blocks keys)[i]? = some p) (hk : keys[ki]? = some p.2) :
    (statelessOut d round st [p.1] [p.2]).isRowOf (statelessOut d round st blocks keys)
      (if st = .rkey then ki else i) := by
  cases st with
  | rkey => exact column64_isRowOf _ hk
  | right => exact column64_isRowOf _ hp
  | ark => exact column64_isRowOf _ hp
  | gda => exact column32_isRowOf _ hp
  | gc => exact column32_isRowOf _ hp
  | gdb => exact column32_isRowOf _ hp
  | f => exact column64_isRowOf _ hp
  | out =>
    have hrow := bytes16_isRowOf (n := blocks.length) (fun p => (blockAfter d p.2 (some round) p.1).renamed round) hp
    exact hrow

/-- A block of a valid batch alone with its key: the inputs are valid, and the output is the row of the batch. -/
theorem row_of_valid {s : State} {vals keys : List Byte} {rnd i ki : Nat} (hv : s.ValidInputs vals keys rnd)
    (hi : i < vals.length / 16) (hki : ki = keyIndex (keys.length / 16) (vals.length / 16) i) (d : Direction)
    (round : Round) (st : StepId) :
    s.ValidInputs (chunk vals i) (chunk keys ki) rnd ∧
      (statelessOut d round st (quadsOf (chunk vals i)) (quadsOf (chunk keys ki))).isRowOf
        (statelessOut d round st (quadsOf vals) (quadsOf keys)) (if st = .rkey then ki else i) := by
  have hc := countsOk_of_valid hv
  have hi' : i < (quadsOf vals).length := by rwa [quadsOf_length]
  have hlt : ki < keys.length / 16 := by simpa only [quadsOf_length, ← hki] using keyIndex_lt hc i hi'
  have hone : (chunk vals i).length = 16 := chunk_length hi
  have hkone : (chunk keys ki).length = 16 := chunk_length hlt
  obtain ⟨p, hp, hblock, hkey⟩ := pairUp_getElem? hc hi'
  rw [quadsOf_length, quadsOf_length, ← hki] at hkey
  have hp1 : Quad.ofBytes (chunk vals i) = p.1 := Option.some.inj ((quadsOf_getElem? hi).symm.trans hblock)
  have hp2 : Quad.ofBytes (chunk keys ki) = p.2 := Option.some.inj ((quadsOf_getElem? hlt).symm.trans hkey)
  obtain ⟨-, -, hn, h1, h2⟩ := hv
  refine ⟨⟨by rw [hone], .inl hkone, by rw [hone]; omega, h1, h2⟩, ?_⟩
  rw [quadsOf_of_length hone, quadsOf_of_length hkone, hp1, hp2]
  exact statelessOut_isRowOf d round st hp hkey

/-- Settles O46: the batch and the block alone answer their stateless outputs, and the one is a row of the other
(`row_of_valid`). -/
theorem batchIsBlockByBlock : Obligations.BatchIsBlockByBlock := by
  intro s ps ks st dec rnd hp hk hn h1 h2
  obtain ⟨round, rfl⟩ := exists_round h1 h2
  have hv : s.ValidInputs ps ks (round.val + 1) := ⟨hp, hk, hn, h1, h2⟩
  refine ⟨_, exec_of_serves (freshWith_serves s dec ps ks) hv st, rfl, fun i hi ki hki => ?_⟩
  obtain ⟨hvone, hrows, hcols, hew, hrow⟩ := row_of_valid hv hi hki (Direction.ofDec dec) round st
  have hone := exec_of_serves (freshWith_serves s dec (chunk ps i) (chunk ks ki)) hvone st
  exact ⟨_, hone, rfl, hrows, hcols, hew, fun c hc => (hrow c hc).symm⟩

end Sys2Proof.Machine
end

section
/-! PROOFS. The family of 44_driver.md, the seven properties of the source (O57): each is a property of `State.result`,
which for an engine that serves listed bytes is the stateless output of their blocks (`result_of_serves`), and commands
of one direction leave an engine that still serves them (`acts_execute_serves`). -/

namespace Sys2Proof.Machine

/-! ### The result of a command on listed bytes (R148). -/

section
variable {s : State} {dec : Bool} {vals keys : List Byte} {rnd : Nat} {round : Round}

theorem writeCmd_serves (h : s.Serves dec vals keys) (w : CmdWord) : (s.writeCmd w).Serves dec vals keys := by
  obtain ⟨hco, hholds, hd⟩ := h
  exact ⟨writeCmd_coherent hco w, hholds, hd⟩

/-- Writing the word of a command with a round below 32 runs it (R51, R61). -/
theorem step_writeCmd_ofStep (s : State) (st : StepId) (dec : Bool) (h : rnd < 32) :
    step (s.writeCmd (encode (Instr.ofStep st dec rnd))) =
      exec (Instr.ofStep st dec rnd) (s.writeCmd (encode (Instr.ofStep st dec rnd))) :=
  (writtenCommandRuns s _ ((wellFormed_ofStep st dec rnd).mpr h)).1

/-- The step of a written command on listed bytes (R149). -/
theorem step_of_serves (h : s.Serves dec vals keys) (hv : s.ValidInputs vals keys (round.val + 1)) (st : StepId) :
    ∃ t, step (s.writeCmd (encode (Instr.ofStep st dec (round.val + 1)))) = .next t ∧ t.err = .ok ∧ t.cfg = s.cfg ∧
      t.out = statelessOut (Direction.ofDec dec) round st (quadsOf vals) (quadsOf keys) := by
  have hround := round.isLt
  have hexec := exec_of_serves (writeCmd_serves h (encode (Instr.ofStep st dec (round.val + 1)))) hv st
  exact ⟨_, (step_writeCmd_ofStep s st dec (by omega)).trans hexec, rfl, rfl, rfl⟩

/-- The result of a command on listed bytes: the stateless output of their blocks. -/
theorem result_of_serves (h : s.Serves dec vals keys) (hv : s.ValidInputs vals keys (round.val + 1)) (st : StepId) :
    s.result (Instr.ofStep st dec (round.val + 1)) =
      some (statelessOut (Direction.ofDec dec) round st (quadsOf vals) (quadsOf keys)) := by
  obtain ⟨t, hstep, herr, -, hout⟩ := step_of_serves h hv st
  exact result_eq_some.mpr ⟨t, hstep, herr, hout⟩

theorem freshResult_of_valid (hv : s.ValidInputs vals keys (round.val + 1)) (dec : Bool) (st : StepId) :
    s.freshResult (Instr.ofStep st dec (round.val + 1)) vals keys =
      some (statelessOut (Direction.ofDec dec) round st (quadsOf vals) (quadsOf keys)) :=
  result_of_serves (freshWith_serves s dec vals keys) hv st

/-- Valid inputs are valid for every engine with the same parameters, and the other way round. -/
theorem validInputs_of_cfg {u : State} (hcfg : u.cfg = s.cfg) (hv : s.ValidInputs vals keys rnd) :
    u.ValidInputs vals keys rnd := by
  rw [State.ValidInputs, hcfg]
  exact hv

/-- A command that has a result on listed bytes has passed its checks (R167). -/
theorem serves_of_result {st : StepId} {o : OutBuf} (hco : s.Coherent) (hholds : s.inp.Holds vals keys)
    (hrnd : rnd < 32) (h : s.result (Instr.ofStep st dec rnd) = some o) :
    s.Serves dec vals keys ∧ s.ValidInputs vals keys rnd := by
  obtain ⟨t, hstep, herr, -⟩ := result_eq_some.mp h
  rw [step_writeCmd_ofStep s st dec hrnd] at hstep
  obtain ⟨hacc, -⟩ := body_of_success hstep herr
  obtain ⟨hd, hv⟩ := (accepts_iff_of_holds hholds).mp hacc
  exact ⟨⟨hco, hholds, hd⟩, hv⟩

/-! ### Earlier commands (R148 items 5 and 6). -/

/-- Command words leave the buffers with the bytes that they hold (R23). -/
theorem acts_commands_holds {ws : List CmdWord} {u : State} (hco : s.Coherent) (hholds : s.inp.Holds vals keys)
    (h : State.acts (ws.map HostAct.command) s = .next u) :
    u.Coherent ∧ u.inp.Holds vals keys ∧ u.cfg = s.cfg := by
  obtain ⟨huco, hinp, hcfg⟩ := acts_commands hco h
  rw [hinp]
  exact ⟨huco, hholds, hcfg⟩

/-- The direction after the word of an `EXECUTE` of an accepted direction is none or that direction (R131). -/
theorem step_execute_dir {t : State} {st : StepId} (hd : s.dir = none ∨ s.dir = some (Direction.ofDec dec))
    (h : step (s.writeCmd (encode (Instr.ofStep st dec rnd))) = .next t) :
    t.dir = none ∨ t.dir = some (Direction.ofDec dec) := by
  rcases step_dirAfter h with hsame | ⟨-, dec', ⟨-, hdec'⟩, ht⟩
  · rw [hsame]
    exact hd
  · obtain ⟨-, -, hdec, -⟩ := execWord_fields st dec rnd
    rw [State.writeCmd_inp] at hdec'
    rw [encode_ofStep, hdec] at hdec'
    exact .inr (hdec' ▸ ht)

/-- The words of any `EXECUTE` commands of one direction complete on an engine that serves listed bytes in that
direction, and leave it serving them: a failed check drops what is loaded, no more. -/
theorem acts_execute_serves (cuts : List (StepId × Nat)) (h : s.Serves dec vals keys) :
    ∃ u, State.acts (executeActs dec cuts) s = .next u ∧ u.Serves dec vals keys ∧ u.cfg = s.cfg := by
  induction cuts generalizing s with
  | nil => exact ⟨s, rfl, h, rfl⟩
  | cons c cuts ih =>
    obtain ⟨hco, hholds, hd⟩ := writeCmd_serves h (encode (Instr.ofStep c.1 dec c.2))
    obtain ⟨v, hv⟩ := everyWordCompletes _ hco
    obtain ⟨hinp, hcfg⟩ := stepLeavesTheInputs _ v hv
    have hserves : v.Serves dec vals keys :=
      ⟨stepKeepsCoherence _ v hco hv, by rw [hinp]; exact hholds, step_execute_dir hd hv⟩
    obtain ⟨u, hacts, hu, hucfg⟩ := ih hserves
    refine ⟨u, ?_, hu, hucfg.trans hcfg⟩
    have hact : s.act (.command (encode (Instr.ofStep c.1 dec c.2))) = .next v := hv
    rw [executeActs, List.map_cons, State.acts, hact]
    exact hacts

end

/-! ### The seven properties. -/

section
variable (s : State)

/-- Property 1: the two results are the bytes of a full run, and of a full run back (`fullRunBytes_fullRunBytes`). -/
theorem decryptInvertsEncrypt (hs : s.cfg.legal) : s.DecryptInvertsEncrypt := by
  intro p k hp hk
  have hv : s.ValidInputs p k ((15 : Round).val + 1) := ⟨by omega, .inl hk, by rw [hp]; exact hs, by decide, by decide⟩
  obtain ⟨t, hstep, herr, hcfg, hout⟩ := step_of_serves (freshWith_serves s false p k) hv .out
  have hback := freshResult_of_valid (validInputs_of_cfg hcfg (validInputs_fullRunBytes hv .encrypt)) true .out
  have hlen : (fullRunBytes .encrypt p k).length / 16 = 1 := by rw [fullRunBytes_length hv, hp]
  refine ⟨t, fullRunBytes .encrypt p k, hstep, herr, ?_, ?_⟩
  · rw [hout, show Direction.ofDec false = .encrypt from rfl, statelessOut_fullRun, hp]
  · rw [show Direction.ofDec true = .decrypt from rfl, statelessOut_fullRun, fullRunBytes_fullRunBytes hv, hlen] at hback
    exact hback

theorem statelessOut_rows (d : Direction) (round : Round) (st : StepId) (blocks keys : List Quad) :
    (statelessOut d round st blocks keys).rows = if st = .rkey then keys.length else blocks.length := by
  cases st <;> rfl

/-- Property 2: block `n` and key `n` are the chunks of the batch, and a chunk alone gives its row (`row_of_valid`). -/
theorem batchEquivalence : s.BatchEquivalence := by
  intro pks st dec rnd hpks hn h1 h2
  obtain ⟨round, rfl⟩ := exists_round h1 h2
  have hps : ∀ p ∈ pks.map Prod.fst, p.length = 16 := by
    simp only [List.mem_map]
    rintro _ ⟨q, hq, rfl⟩
    exact (hpks q hq).1
  have hks : ∀ k ∈ pks.map Prod.snd, k.length = 16 := by
    simp only [List.mem_map]
    rintro _ ⟨q, hq, rfl⟩
    exact (hpks q hq).2
  have hvlen : (pks.map Prod.fst).flatten.length = 16 * pks.length := by rw [flatten_length hps, List.length_map]
  have hklen : (pks.map Prod.snd).flatten.length = 16 * pks.length := by rw [flatten_length hks, List.length_map]
  have hv : s.ValidInputs (pks.map Prod.fst).flatten (pks.map Prod.snd).flatten (round.val + 1) :=
    ⟨by omega, .inr (hklen.trans hvlen.symm), by omega, h1, h2⟩
  refine ⟨_, freshResult_of_valid hv dec st, ?_, fun n q hq => ?_⟩
  · rw [statelessOut_rows, quadsOf_length, quadsOf_length, hvlen, hklen, ite_self]
    omega
  · have hlt : n < pks.length := (List.getElem?_eq_some_iff.mp hq).1
    have hki : n = keyIndex ((pks.map Prod.snd).flatten.length / 16) ((pks.map Prod.fst).flatten.length / 16) n := by
      rw [hvlen, hklen, keyIndex, if_pos rfl]
    obtain ⟨hone, hrow⟩ := row_of_valid hv (by omega) hki (Direction.ofDec dec) round st
    rw [chunk_flatten hps (by simp [hq] : _ = some q.1), chunk_flatten hks (by simp [hq] : _ = some q.2)] at hone hrow
    rw [ite_self] at hrow
    exact ⟨_, freshResult_of_valid hone dec st, hrow⟩

/-- Property 3: the key index is 0 for every block, so the key of every row is the one key (`row_of_valid`). -/
theorem keyBroadcast : s.KeyBroadcast := by
  intro ps k st dec rnd hps hk hn h1 h2
  obtain ⟨round, rfl⟩ := exists_round h1 h2
  have hvlen : ps.flatten.length = 16 * ps.length := flatten_length hps
  have hv : s.ValidInputs ps.flatten k (round.val + 1) := ⟨by omega, .inl hk, by omega, h1, h2⟩
  refine ⟨_, freshResult_of_valid hv dec st, ?_, fun n p hp => ?_⟩
  · rw [statelessOut_rows, quadsOf_length, quadsOf_length, hk, hvlen, Nat.mul_div_cancel_left _ (by omega)]
  · have hlt : n < ps.length := (List.getElem?_eq_some_iff.mp hp).1
    have hki : 0 = keyIndex (k.length / 16) (ps.flatten.length / 16) n := by
      rw [keyIndex]
      split <;> omega
    obtain ⟨hone, hrow⟩ := row_of_valid hv (by omega) hki (Direction.ofDec dec) round st
    rw [chunk_flatten hps hp, chunk_zero hk] at hone hrow
    exact ⟨_, freshResult_of_valid hone dec st, hrow⟩

/-- Property 5: after the earlier commands the engine still serves the bytes (`acts_execute_serves`). -/
theorem prefixEquivalence : s.PrefixEquivalence := by
  intro vals keys earlier st dec rnd hv _
  obtain ⟨-, -, -, h1, h2⟩ := id hv
  obtain ⟨round, rfl⟩ := exists_round h1 h2
  obtain ⟨u, hacts, hu, hcfg⟩ := acts_execute_serves earlier (freshWith_serves s dec vals keys)
  exact ⟨u, _, hacts, result_of_serves hu (validInputs_of_cfg hcfg hv) st, freshResult_of_valid hv dec st⟩

/-- Property 6: likewise after the first of the two commands, which passes its checks. -/
theorem rewindSafety : s.RewindSafety := by
  intro vals keys st1 st2 dec rnd1 rnd2 hv1 hv2 _
  obtain ⟨-, -, -, h1, h2⟩ := id hv1
  obtain ⟨-, -, -, h3, h4⟩ := id hv2
  obtain ⟨round1, rfl⟩ := exists_round h1 h2
  obtain ⟨round2, rfl⟩ := exists_round h3 h4
  have hfresh := freshWith_serves s dec vals keys
  obtain ⟨u, hacts, hu, hcfg⟩ := acts_execute_serves [(st1, round1.val + 1)] hfresh
  obtain ⟨t, hstep, herr, -, -⟩ := step_of_serves hfresh hv1 st1
  obtain ⟨v, hv, hvu⟩ := acts_cons_next hacts
  obtain rfl : v = t := Host.Outcome.next.inj (hv.symm.trans hstep)
  obtain rfl : v = u := Host.Outcome.next.inj hvu
  exact ⟨v, _, hacts, herr, result_of_serves hu (validInputs_of_cfg hcfg hv2) st2, freshResult_of_valid hv2 dec st2⟩

/-- Properties 5 and 6 together: a command with a result passed its checks (`serves_of_result`), so the result is the
stateless output of the bytes, on every engine with the same parameters. -/
theorem outIsAFunctionOfTheInputs : s.OutIsAFunctionOfTheInputs := by
  intro s' u vals keys ws st dec rnd o hcfg hrnd hacts hresult
  obtain ⟨huco, hholds, hucfg⟩ := acts_commands_holds (freshWith_coherent s vals keys) ⟨rfl, rfl, rfl, rfl⟩ hacts
  obtain ⟨hu, hv⟩ := serves_of_result huco hholds hrnd hresult
  obtain ⟨-, -, -, h1, h2⟩ := id hv
  obtain ⟨round, rfl⟩ := exists_round h1 h2
  rw [← hresult, result_of_serves hu hv st]
  exact freshResult_of_valid (validInputs_of_cfg (hcfg.trans hucfg.symm) hv) dec st

/-- Property 7: the capture of Output byte by byte, as `outCapturesTheBytes` says it. -/
theorem packing : s.Packing := by
  intro vals keys dec round hv
  have hround := round.isLt
  have hfresh := writeCmd_serves (freshWith_serves s dec vals keys) (encode (Instr.ofStep .out dec (round.val + 1)))
  obtain ⟨hco, hholds, hd⟩ := hfresh
  have hacc := (accepts_iff_of_holds hholds).mpr ⟨hd, hv⟩
  obtain ⟨_, t, -, hexec, ⟨-, herr, -⟩, -, hshape, -, hrows⟩ := outCapturesTheBytes _ dec round hco hacc
  have hstep := (step_writeCmd_ofStep (s.freshWith vals keys) .out dec (rnd := round.val + 1) (by omega)).trans hexec
  refine ⟨t, hstep, herr, hshape, fun i hi => ?_⟩
  obtain ⟨_, b, _, -, hread, -, hbytes⟩ := hrows i hi
  exact ⟨b, hread, hbytes⟩

end

/-- Settles O57: the properties one by one; property 4 is the first part of O19. -/
theorem engineHasTheSevenProperties : Obligations.EngineHasTheSevenProperties := fun s hs =>
  { decryptInvertsEncrypt := decryptInvertsEncrypt s hs
    batchEquivalence := batchEquivalence s
    keyBroadcast := keyBroadcast s
    gDeterminism := gFunctionOfTheSource.1
    prefixEquivalence := prefixEquivalence s
    rewindSafety := rewindSafety s
    outIsAFunctionOfTheInputs := outIsAFunctionOfTheInputs s
    packing := packing s }

end Sys2Proof.Machine
end

section
/-! PROOFS. The family of 60_exceptions.md: which error an `EXECUTE` ends with (O14), and what an error leaves (O15). -/

namespace Sys2Proof.Machine

/-- The shape and range checks that fail, as the statements write them: (a), (b), (c) and (e) of R161. -/
theorem badShape_iff (inp : Inputs) (rnd : Nat) : (rnd < 1 ∨ 16 < rnd ∨ inp.shapeOk = false) ↔
    inp.vlen % 16 ≠ 0 ∨ inp.klen % 16 ≠ 0 ∨ (inp.klen / 16 ≠ 1 ∧ inp.klen / 16 ≠ inp.vlen / 16) ∨
      rnd < 1 ∨ 16 < rnd := by
  rw [← Bool.not_eq_true, shapeOk_iff]
  omega

theorem not_badShape {inp : Inputs} {rnd : Nat} (h1 : 1 ≤ rnd) (h2 : rnd ≤ 16) (hs : inp.shapeOk = true) :
    ¬ (inp.vlen % 16 ≠ 0 ∨ inp.klen % 16 ≠ 0 ∨ (inp.klen / 16 ≠ 1 ∧ inp.klen / 16 ≠ inp.vlen / 16) ∨
      rnd < 1 ∨ 16 < rnd) := by
  simp only [← badShape_iff, hs, reduceCtorEq, or_false]
  omega

/-- Settles O14: each of the four courses of an `EXECUTE` (`runExecute_cases`) passes the checks before the one that it
fails, and a body that runs to its end clears `ERR` (`executeBody_setting`). -/
theorem errIsTheFirstFailedCheck : Obligations.ErrIsTheFirstFailedCheck := by
  intro s t st dec rnd h
  rw [exec_ofStep] at h
  rcases runExecute_cases dec rnd (cutOf st) s with
    ⟨d, hsome, hne, h'⟩ | ⟨hd, ⟨hbad, h'⟩ | ⟨h1, h2, hs, hn, h'⟩ | ⟨round, hr, hs, hn, h'⟩⟩ <;> rw [h'] at h
  · obtain rfl := Host.Outcome.next.inj h
    rw [if_pos (hsome.trans (congrArg some (eq_ofDec_not_of_ne hne)))]
    rfl
  · obtain rfl := Host.Outcome.next.inj h
    rw [if_neg fun hsw => not_free_of_switch hsw hd, if_pos ((badShape_iff s.inp rnd).mp hbad)]
    rfl
  · have hcount : s.cfg.nmax < s.inp.vlen / 16 := hn
    obtain rfl := Host.Outcome.next.inj h
    rw [if_neg fun hsw => not_free_of_switch hsw hd, if_neg (not_badShape h1 h2 hs), if_pos hcount]
    rfl
  · have hcount : ¬ s.cfg.nmax < s.inp.vlen / 16 := Nat.not_lt.mpr hn
    have hbody : s.executeBody st dec round = .ok t := settle_eq_next.mp h
    obtain ⟨-, -, -, herr⟩ := executeBody_setting hbody
    rw [if_neg fun hsw => not_free_of_switch hsw hd, if_neg (not_badShape (by omega) (by omega) hs), if_neg hcount, herr]

/-- Settles O15: a step that ends with an error has raised it (`step_next_cases`), which leaves a fresh engine
(`raise_eq_hreset`); a frozen direction stays by O54. -/
theorem errorLeavesAFreshEngine : Obligations.ErrorLeavesAFreshEngine := by
  intro s t h herr
  obtain ⟨hfrozen, -⟩ := directionIsFrozen s t h
  refine ⟨?_, hfrozen⟩
  rcases step_next_cases h with ⟨-, rfl⟩ | ⟨e, d, -, -, rfl⟩ | ⟨st, dec, rnd, round, -, -, -, -, hbody⟩
  · exact absurd rfl herr
  · exact raise_eq_hreset e { s with dir := d }
  · obtain ⟨-, -, -, hok⟩ := executeBody_setting hbody
    exact absurd hok herr

end Sys2Proof.Machine
end

section
/-! PROOFS. The family of 70_reset_and_hazards.md: `HRESET` gives a fresh engine (O17). -/

namespace Sys2Proof.Machine

/-- `HRESET` is an engine reset that also sets the direction, the error, `OUT` and the inputs (R185). -/
theorem hreset_eq_engineReset (after : Inputs) (s : State) : s.hreset after =
    State.engineReset { s with dir := none, err := .ok, out := OutBuf.empty, inp := after } := rfl

theorem engineReset_idem (s : State) : s.engineReset.engineReset = s.engineReset := rfl

theorem hreset_fresh (after : Inputs) (s : State) : (s.hreset after).Fresh := by
  rw [hreset_eq_engineReset]
  exact engineReset_idem _

/-- A fresh engine with no direction, no error and an empty `OUT` is what `HRESET` makes of it when the inputs stay. -/
theorem hreset_eq_self {s : State} (hfresh : s.Fresh) (hdir : s.dir = none) (herr : s.err = .ok)
    (hout : s.out = OutBuf.empty) : s.hreset s.inp = s := by
  have hset : s = { s with dir := none, err := .ok, out := OutBuf.empty, inp := s.inp } := by
    rw [← hdir, ← herr, ← hout]
  rw [hreset_eq_engineReset, ← hset]
  exact hfresh

theorem reset_fresh : State.reset.Fresh := rfl

/-- Settles O17: `HRESET` leaves an engine reset, which is its own reset (`hreset_fresh`); the other fields are those of
R185; and `State.reset` is fresh with these fields, so `HRESET` keeps it (`hreset_eq_self`). -/
theorem hresetIsAFreshEngine : Obligations.HresetIsAFreshEngine := by
  refine ⟨fun s after => ?_, (hreset_eq_self reset_fresh rfl rfl rfl).symm⟩
  have hkey : tagVal (s.hreset after).keyRound = -1 := by rw [State.hreset_keyRound, tagVal]
  have hblock : tagVal (s.hreset after).blockRound = -1 := by rw [State.hreset_blockRound, tagVal]
  exact ⟨hreset_fresh after s, State.hreset_dir after s, State.hreset_err after s, State.hreset_out after s,
    State.hreset_inp after s, State.hreset_cfg after s, State.hreset_blkLoaded after s,
    State.hreset_keyLoaded after s, hkey, hblock⟩

end Sys2Proof.Machine
end

section
/-! PROOFS. The worked encodings of 30_encoding.md section 3 (O5). The encoder builds each of them from the operands that
the spec gives for it, and decoding takes an encoder's word back to its command. -/

namespace Sys2Proof.Machine

/-- The word of an `EXECUTE` is computed from its step, `dec` and `rnd`; that it decodes needs no more than that the
round fits its field (R61). -/
theorem decode_of_execWord_eq {w : CmdWord} (st : StepId) (dec : Bool) (rnd : Nat) (hrnd : rnd < 32)
    (hw : execWord st dec rnd = w) : decode w = .instr (Instr.ofStep st dec rnd) := by
  have hwf : (Instr.ofStep st dec rnd).wellFormed = true := by rwa [wellFormed_ofStep]
  rw [← hw, ← encode_ofStep]
  exact decode_encode hwf

/-- Settles O5: 0x0000 is the word of `RESET` (`decode_eq_reset_iff`), and each other word is the `execWord` of the step,
direction and round that the spec gives for it. -/
theorem specWordsDecode : Obligations.SpecWordsDecode :=
  ⟨(decode_eq_reset_iff _).mpr rfl,
    decode_of_execWord_eq .rkey true 3 (by decide) rfl,
    decode_of_execWord_eq .right false 2 (by decide) rfl,
    decode_of_execWord_eq .ark false 1 (by decide) rfl,
    decode_of_execWord_eq .gda false 1 (by decide) rfl,
    decode_of_execWord_eq .gc false 1 (by decide) rfl,
    decode_of_execWord_eq .gdb false 1 (by decide) rfl,
    decode_of_execWord_eq .f false 1 (by decide) rfl,
    decode_of_execWord_eq .out false 16 (by decide) rfl,
    decode_of_execWord_eq .out true 16 (by decide) rfl⟩

end Sys2Proof.Machine
end
